-- ==== Sys2Proof/Word.lean ====
section
/-! DEFINITION. The word types of the block and their plainest operations (00_scope R8, R9). -/

namespace Sys2Proof

/-- A register word, 32 bits (R8). -/
abbrev Word := BitVec 32

/-- A byte; a keycode is one byte (R8). -/
abbrev Byte := BitVec 8

/-- A byte address on the register bus, `a[13:0]` (20_memory R50). -/
abbrev Addr := BitVec 14

/-- One bit per bit index. K is at most 1024 (00_scope R4), so 1024 bits hold the pressed-key bitmap and the
scan accumulator of every elaboration; bits at or above K are held 0 (log 12). -/
abbrev KeyBits := BitVec 1024

/-- The levels of up to 32 lines, line j in bit j: 0 = low, 1 = high (00_scope R10). -/
abbrev Levels := BitVec 32

/-- The report buffer RB[0..35] (10_state R33). -/
abbrev Report := Vector Byte 36

end Sys2Proof
end

