-- ==== Sys2Proof/Syntax.lean ====
section
/-! DEFINITION. The commands: one constructor per row of spec/opcode_table.json (30_encoding R70, R72).

Every command word has the fields OP (bits 7:0) and IGN (bits 31:8). A row whose OP is one fixed value carries only
IGN; a reserved row covers a range of opcodes and carries OP too. No command has a register or immediate operand
(R71). -/

namespace Sys2Proof

/-- A command word, decoded. `ign` is the ignored field, `op` the opcode of a reserved row. -/
inductive Instr where
  /-- NOP, OP = 0x00 (40_command R88). -/
  | nop (ign : BitVec 24)
  /-- SCAN, OP = 0x01 (41_scan R100). -/
  | scan (ign : BitVec 24)
  /-- ENCODE, OP = 0x02 (42_encode R122). -/
  | encode (ign : BitVec 24)
  /-- SCAN_ENCODE, OP = 0x03 (43_scan_encode R140). -/
  | scanEncode (ign : BitVec 24)
  /-- RESERVED_04_07 (40_command R89). -/
  | reserved0407 (op : Byte) (ign : BitVec 24)
  /-- RESERVED_08_0F (40_command R89). -/
  | reserved080F (op : Byte) (ign : BitVec 24)
  /-- RESERVED_10_1F (40_command R89). -/
  | reserved101F (op : Byte) (ign : BitVec 24)
  /-- RESERVED_20_3F (40_command R89). -/
  | reserved203F (op : Byte) (ign : BitVec 24)
  /-- RESERVED_40_7F (40_command R89). -/
  | reserved407F (op : Byte) (ign : BitVec 24)
  /-- RESERVED_80_FF (40_command R89). -/
  | reserved80FF (op : Byte) (ign : BitVec 24)
  deriving DecidableEq, Repr

end Sys2Proof
end

