-- ==== Sys2Proof/WellFormed.lean ====
section
/-! DEFINITION. Which terms of Instr stand for a command word: the opcode of a reserved row lies in that row's range
of spec/opcode_table.json (30_encoding R72, R73). Every other field admits every value. -/

namespace Sys2Proof

/-- The opcode lies in the range the row's name gives. -/
def Instr.wellFormed : Instr → Bool
  | .nop _ | .scan _ | .encode _ | .scanEncode _ => true
  | .reserved0407 op _ => decide (0x04 ≤ op ∧ op ≤ 0x07)
  | .reserved080F op _ => decide (0x08 ≤ op ∧ op ≤ 0x0F)
  | .reserved101F op _ => decide (0x10 ≤ op ∧ op ≤ 0x1F)
  | .reserved203F op _ => decide (0x20 ≤ op ∧ op ≤ 0x3F)
  | .reserved407F op _ => decide (0x40 ≤ op ∧ op ≤ 0x7F)
  | .reserved80FF op _ => decide (0x80 ≤ op ∧ op ≤ 0xFF)

end Sys2Proof
end

