-- ==== Sys2Proof/Decode.lean ====
section
/-! DEFINITION. Decoding and encoding of command words (30_encoding R70 to R74).

Decoding is total: every 32-bit word decodes to exactly one row (R72), so no word is refused. A command word is one
bus word and is not laid out in bytes; `decodeTableWord` refuses a word longer than the one format CMD32 (log 17). -/

namespace Sys2Proof

/-- OP, bits 7:0 of a command word (R70). -/
def opBits (w : Word) : Byte := w.extractLsb' 0 8

/-- IGN, bits 31:8 of a command word (R70). -/
def ignBits (w : Word) : BitVec 24 := w.extractLsb' 8 24

/-- The row of spec/opcode_table.json that a command word matches: each test is that row's mask and match. -/
def decode (w : Word) : Instr :=
  if w &&& 0x000000FF = 0x00000000 then .nop (ignBits w)
  else if w &&& 0x000000FF = 0x00000001 then .scan (ignBits w)
  else if w &&& 0x000000FF = 0x00000002 then .encode (ignBits w)
  else if w &&& 0x000000FF = 0x00000003 then .scanEncode (ignBits w)
  else if w &&& 0x000000FC = 0x00000004 then .reserved0407 (opBits w) (ignBits w)
  else if w &&& 0x000000F8 = 0x00000008 then .reserved080F (opBits w) (ignBits w)
  else if w &&& 0x000000F0 = 0x00000010 then .reserved101F (opBits w) (ignBits w)
  else if w &&& 0x000000E0 = 0x00000020 then .reserved203F (opBits w) (ignBits w)
  else if w &&& 0x000000C0 = 0x00000040 then .reserved407F (opBits w) (ignBits w)
  else .reserved80FF (opBits w) (ignBits w)

/-- The ignored field IGN of the word (R70). -/
def Instr.ignField : Instr → BitVec 24
  | .nop ign | .scan ign | .encode ign | .scanEncode ign => ign
  | .reserved0407 _ ign | .reserved080F _ ign | .reserved101F _ ign => ign
  | .reserved203F _ ign | .reserved407F _ ign | .reserved80FF _ ign => ign

/-- The opcode OP of the word (R72). -/
def Instr.opField : Instr → Byte
  | .nop _ => 0x00
  | .scan _ => 0x01
  | .encode _ => 0x02
  | .scanEncode _ => 0x03
  | .reserved0407 op _ | .reserved080F op _ | .reserved101F op _ => op
  | .reserved203F op _ | .reserved407F op _ | .reserved80FF op _ => op

/-- The command word with these two fields: IGN above OP (R70). -/
def commandWord (ign : BitVec 24) (op : Byte) : Word := ign ++ op

/-- The command word of an instruction (R70, R72). -/
def encode (i : Instr) : Word := commandWord i.ignField i.opField

/-- The instruction of a table word: bit 0 is the least significant bit, the bits at or above `nbits` are 0. A word of
more than the 32 bits of CMD32 (R70: one format, one length) is refused. -/
def decodeTableWord (nbits w : Nat) : Option Instr :=
  if nbits ≤ 32 then some (decode (BitVec.ofNat 32 (w % 2 ^ nbits))) else none

end Sys2Proof
end

