-- ==== Sys2Proof/Config.lean ====
section
/-! DEFINITION. What an elaboration fixes (00_scope R4) and the free values the spec leaves open.

The parameters are an argument of the model (R4): State carries them in a field no step writes (log 1). The
opaque constants below have no body: nothing can be proved of their values. -/

namespace Sys2Proof

/-- DIR (R4): which side drives. -/
inductive ScanDir where
  /-- DIR = 0: rows drive and columns sense. -/
  | rowsDrive
  /-- DIR = 1: columns drive and rows sense. -/
  | colsDrive
  deriving DecidableEq, Repr

/-- The report form, CTRL.MODE and MODE_RESET (R4, 10_state R25). -/
inductive Mode where
  /-- MODE = 0. -/
  | sixKro
  /-- MODE = 1. -/
  | nkro
  deriving DecidableEq, Repr

/-- The elaboration parameters of 00_scope R4, under the spec's names. -/
structure Params where
  /-- N_ROWS -/
  nRows : Nat
  /-- N_COLS -/
  nCols : Nat
  /-- DIR -/
  dir : ScanDir
  /-- LAYOUT, one list per row; true = a wired key. -/
  layout : List (List Bool)
  /-- N_LAYERS -/
  nLayers : Nat
  /-- KEYMAP, one list of keycodes per layer, packed as in R7. -/
  keymap : List (List Byte)
  /-- SETTLE_RESET -/
  settleReset : Nat
  /-- MODE_RESET -/
  modeReset : Mode
  /-- T_CMD_MAX, OPEN (92 D31); only the legality check reads it (log 2, log 15). -/
  tCmdMax : Nat
  /-- SYNC_LAT, OPEN (92 D10); nothing reads it (log 2). -/
  syncLat : Nat
  /-- F_CLK, OPEN (92 D34); only the legality check reads it (log 2, log 15). -/
  fClk : Nat
  deriving DecidableEq, Repr

/-- DESIGN CHOICE (log 1): the elaboration that State.reset is built for, Config A of 95_test_vectors with the
defaults SETTLE_RESET = 40 and MODE_RESET = 0 of R4. Statements are made for every elaboration instead. -/
def Params.reference : Params where
  nRows := 3
  nCols := 3
  dir := .rowsDrive
  layout := [[true, true, true], [true, false, true], [true, true, true]]
  nLayers := 2
  keymap := [[0x04, 0x05, 0x06, 0xE3, 0x07, 0x08, 0x09, 0x0A], [0x1E, 0x1F, 0x20, 0xE0, 0x21, 0x22, 0x23, 0x00]]
  settleReset := 40
  modeReset := .sixKro
  tCmdMax := 196612
  syncLat := 0
  fClk := 1

/-- FREE VALUE (41_scan R104, log 6): the levels of the sense lines in the n-th free draw. -/
opaque Config.freeSample : Nat → Levels

/-- FREE VALUE ANY32 (20_memory R55, R59, log 7): what a read whose value the spec leaves open returns in the
n-th free draw. -/
opaque Config.anyRead : Nat → Word

/-- FREE VALUE (20_memory R60, log 5): how many turns the host takes ahead of the sequencer's n-th step that both
contend for, where no turn is given. Any number, and a number: the sequencer is not starved (70 R183). -/
opaque Config.hostTurns : Nat → Nat

end Sys2Proof
end

