-- ==== Sys2Proof/Machine/State.lean ====
section
/-! DEFINITION. The state of the machine: the block's own state, exactly the list of 10_state R20; the elaboration
parameters it was built with; and the environment that acts on it (host, pins, matrix). Plain data throughout. -/

namespace Sys2Proof.Machine

/-- What the next sequencer step does (10_state R35). -/
inductive Phase where
  | idle
  | assert
  | settle
  | enc
  deriving DecidableEq, Repr

/-- The accepted command `op_l` (10_state R35). -/
inductive Op where
  | scan
  | encode
  | scanEncode
  deriving DecidableEq, Repr

/-- The block's state, 10_state R20. CFG0, CFG1 and KEYMAP are constants of the elaboration (`Params`), CMD holds no
value (R30) and irq is a function of the state (60 R155), so none of them is a field. -/
structure Block where
  /-- CTRL.MODE (R25) -/
  mode : Mode
  /-- CTRL.LAYER (R25) -/
  layer : BitVec 3
  /-- CTRL.IE (R25) -/
  ie : Bool
  /-- SETTLE.COUNT (R27) -/
  settle : BitVec 16
  /-- STATUS.BUSY (R28) -/
  busy : Bool
  /-- STATUS.DONE (R28) -/
  done : Bool
  /-- STATUS.ERR_CMD (R28) -/
  errCmd : Bool
  /-- STATUS.ERR_BUSY (R28) -/
  errBusy : Bool
  /-- STATUS.RLEN (R28) -/
  rlen : Byte
  /-- BITMAP as its bits: bit i is BM[i], stored as BITMAP[i >> 5][i & 31] (R10, R31) -/
  bitmap : KeyBits
  /-- RB[0..35] (R33) -/
  rb : Report
  /-- sequencer phase (R35) -/
  phase : Phase
  /-- op_l (R35) -/
  opL : Op
  /-- mode_l (R35) -/
  modeL : Mode
  /-- layer_l (R35) -/
  layerL : BitVec 3
  /-- settle_l (R35) -/
  settleL : BitVec 16
  /-- current drive line d (R35) -/
  d : Nat
  /-- settle-wait steps left (R35) -/
  cnt : BitVec 16
  /-- scan accumulator (R35) -/
  acc : KeyBits
  /-- drive[j] in bit j: 0 = active, 1 = inactive (R36); bits at or above N_DRIVE stay 1 (log 13) -/
  drive : Levels
  deriving DecidableEq, Repr

/-- The width of an access narrower than the port (20_memory R54). -/
inductive Narrow where
  | bits8
  | bits16
  deriving DecidableEq, Repr

/-- One line of a host program (30_encoding R75); labels and temporaries are numbered. The two narrow lines are the
accesses R54 speaks of. -/
inductive HostLine where
  /-- `WR off, v` -/
  | wr (off : Addr) (v : Word)
  /-- `RD off -> t` -/
  | rd (off : Addr) (t : Nat)
  /-- `RD off == v` -/
  | rdCheck (off : Addr) (v : Word)
  /-- `label:` names the next line -/
  | label (l : Nat)
  /-- `BZ t, mask, label` -/
  | bz (t : Nat) (mask : Word) (l : Nat)
  /-- `BNZ t, mask, label` -/
  | bnz (t : Nat) (mask : Word) (l : Nat)
  /-- an 8-bit or 16-bit write -/
  | wrNarrow (n : Narrow) (off : Addr) (v : Word)
  /-- an 8-bit or 16-bit read into t -/
  | rdNarrow (n : Narrow) (off : Addr) (t : Nat)
  deriving DecidableEq, Repr

/-- The host agent (00_scope R13, 30_encoding R75); the model's own fields (log 4). -/
structure HostAgent where
  /-- the program, line 0 first -/
  prog : List HostLine
  /-- the line the host performs next -/
  line : Nat
  /-- host temporaries: keys rising, no entry 0; an unlisted temporary holds 0 -/
  temps : List (Nat × Word)
  /-- the values read over the bus, oldest first (70 R187) -/
  reads : List Word
  /-- a `RD off == v` line read a value other than v (log 19) -/
  failed : Bool
  deriving DecidableEq, Repr

/-- What moves in one step: an agent (00_scope R13) or an input pin (10_state R36). -/
inductive Turn where
  /-- the host performs its next line -/
  | host
  /-- the sequencer takes its next step -/
  | sequencer
  /-- `rst` goes to 1 (70 R170) -/
  | assertRst
  /-- `rst` goes to 0 (70 R170) -/
  | releaseRst
  /-- `clk` stops (60 R163) -/
  | stopClk
  /-- `clk` runs again (60 R163) -/
  | startClk
  deriving DecidableEq, Repr

/-- What stands outside the block; the model's own fields, given as data so that a statement over all states is a
statement over all schedules and all matrix answers (log 4 to log 6). -/
structure Env where
  /-- the level of the `rst` pin -/
  rst : Bool
  /-- `clk` runs -/
  clkOn : Bool
  /-- sense levels supplied for the coming Sample draws, next first -/
  samples : List Levels
  /-- the turns to come, next first -/
  turns : List Turn
  /-- how many free values have been drawn by samples and reads -/
  draws : Nat
  /-- how many contended steps of the sequencer have been chosen (log 5) -/
  picks : Nat
  /-- how many turns the host has taken ahead of the next one (log 5) -/
  waited : Nat
  host : HostAgent
  deriving DecidableEq, Repr

/-- The machine. -/
structure State where
  /-- the elaboration parameters (00_scope R4); no step writes them (log 1) -/
  params : Params
  /-- the block's state (10_state R20) -/
  blk : Block
  /-- host, pins and matrix -/
  env : Env
  deriving DecidableEq, Repr

/-- Why a step stops with a fault: never. "No behaviour of the block is treated as `fault`" (93 section 2; 60 R150:
the block never traps). No constructor, so nobody raises one; safe. -/
inductive Fault where
  deriving DecidableEq, Repr

/-- Why a step has no meaning. -/
inductive Refusal where
  /-- Raised by no meaning of this model: the name by which an arm of exec would reject a command without a meaning.
  Safe: the machine stops. -/
  | notModelled (mnemonic : String)
  /-- Raised by `step` when a parameter is outside its legal range: no block is produced (00_scope R6; 93: `refuse`).
  Safe. -/
  | illegalElaboration
  /-- Raised by the host step for an 8-bit or 16-bit write (20_memory R54: "A model refuses a narrower write"). Safe. -/
  | narrowWrite
  /-- Raised by the host step for a branch to a label its program does not define; the notation of R75 gives such a
  program no meaning (log 18). Safe. -/
  | unknownLabel (l : Nat)
  deriving DecidableEq, Repr

/-- Every drive line inactive (10_state R37). -/
def allHigh : Levels := BitVec.allOnes 32

/-- The block after reset (10_state R39). The latches op_l, mode_l, layer_l, settle_l, d, cnt and acc are
"unspecified and unobservable" there: DESIGN CHOICE, the values below (log 3). -/
def Block.reset (p : Params) : Block where
  mode := p.modeReset
  layer := 0
  ie := false
  settle := BitVec.ofNat 16 p.settleReset
  busy := false
  done := false
  errCmd := false
  errBusy := false
  rlen := 0
  bitmap := 0
  rb := Vector.replicate 36 0
  phase := .idle
  opL := .scan
  modeL := .sixKro
  layerL := 0
  settleL := 0
  d := 0
  cnt := 0
  acc := 0
  drive := allHigh

/-- A host with nothing to do. -/
def HostAgent.empty : HostAgent where
  prog := []
  line := 0
  temps := []
  reads := []
  failed := false

/-- The environment of a block just out of reset: rst = 0, clk running, nothing supplied (log 4 to log 6). -/
def Env.quiet : Env where
  rst := false
  clkOn := true
  samples := []
  turns := []
  draws := 0
  picks := 0
  waited := 0
  host := HostAgent.empty

/-- The machine right after reset, for given elaboration parameters (10_state R39, 70 R170). -/
def State.resetWith (p : Params) : State where
  params := p
  blk := Block.reset p
  env := Env.quiet

/-- The machine right after reset, for the reference elaboration (log 1). -/
def State.reset : State := State.resetWith Params.reference

end Sys2Proof.Machine
end

