-- ==== Sys2Proof/Machine/Flags.lean ====
section
/-! DEFINITION. The four flags of the block, who sets and clears them, and the interrupt output (10_state R28, R29,
R38; 60_exceptions R151, R152, R155). -/

namespace Sys2Proof.Machine

/-- `raise ERR_CMD`: set the sticky flag, change nothing else (00_scope R11, 60 R151). -/
def Block.raiseErrCmd (b : Block) : Block := { b with errCmd := true }

/-- `raise ERR_BUSY`: set the sticky flag, change nothing else (00_scope R11, 60 R152). -/
def Block.raiseErrBusy (b : Block) : Block := { b with errBusy := true }

/-- The write-1-to-clear of STATUS bits 1 to 3 (10_state R29). -/
def Block.clearFlags (b : Block) (v : Word) : Block :=
  { b with
    done := b.done && !v.getLsbD 1
    errCmd := b.errCmd && !v.getLsbD 2
    errBusy := b.errBusy && !v.getLsbD 3 }

/-- The word a read of STATUS returns (10_state R28, 20_memory R55). -/
def Block.statusWord (b : Block) : Word :=
  0#8 ++ b.rlen ++ 0#12 ++ BitVec.ofBool b.errBusy ++ BitVec.ofBool b.errCmd ++ BitVec.ofBool b.done
    ++ BitVec.ofBool b.busy

/-- `irq = CTRL.IE & STATUS.DONE`, level, combinational in the state (60 R155). -/
def Block.irq (b : Block) : Bool := b.ie && b.done

/-- `finish()`: the command ends, BUSY falls and DONE rises in the same step (40_command R90). -/
def Block.finish (b : Block) : Block := { b with phase := .idle, busy := false, done := true }

end Sys2Proof.Machine
end

