-- ==== Sys2Proof/Machine/Layout.lean ====
section
/-! DEFINITION. What the elaboration parameters determine: the derived quantities of 00_scope R5, the legality check
of R6, and the mapping between lines, positions and bit indices (41_scan R101, R102). -/

namespace Sys2Proof

/-- `LAYOUT[r][c] = 1`: position (r, c) is non-empty (00_scope R4). -/
def Params.wired (p : Params) (r c : Nat) : Bool := (p.layout.getD r []).getD c false

/-- The positions in row-major order (00_scope R5: position (r, c) is entry r·N_COLS + c). -/
def Params.positions (p : Params) : List Bool := p.layout.flatten

/-- K, the number of non-empty positions (00_scope R5). -/
def Params.numKeys (p : Params) : Nat := p.positions.count true

/-- NW = ceil(K / 32) (00_scope R5). -/
def Params.numWords (p : Params) : Nat := (p.numKeys + 31) / 32

/-- N_DRIVE (00_scope R5). -/
def Params.numDrive (p : Params) : Nat :=
  match p.dir with
  | .rowsDrive => p.nRows
  | .colsDrive => p.nCols

/-- N_SENSE (00_scope R5). -/
def Params.numSense (p : Params) : Nat :=
  match p.dir with
  | .rowsDrive => p.nCols
  | .colsDrive => p.nRows

/-- idx(r, c): how many non-empty positions come before (r, c) in row-major order, whatever DIR is (41_scan R101). -/
def Params.idx (p : Params) (r c : Nat) : Nat := (p.positions.take (r * p.nCols + c)).count true

/-- pos(d, j): where drive line d and sense line j meet (41_scan R102). -/
def Params.pos (p : Params) (d j : Nat) : Nat × Nat :=
  match p.dir with
  | .rowsDrive => (d, j)
  | .colsDrive => (j, d)

/-- The bits below K. -/
def Params.keyMask (p : Params) : KeyBits := BitVec.ofNat 1024 (2 ^ p.numKeys - 1)

/-- KEYMAP[L][i], and 0x00 outside the keymap (10_state R34, the function E). -/
def Params.keymapEntry (p : Params) (l i : Nat) : Byte :=
  if l < p.nLayers ∧ i < p.numKeys then (p.keymap.getD l []).getD i 0 else 0

/-- DIR as the bit CFG0 shows (00_scope R4). -/
def Params.dirBit (p : Params) : Bool :=
  match p.dir with
  | .rowsDrive => false
  | .colsDrive => true

/-- The largest number of sequencer steps a command can take, over every settle count (40_command R91). -/
def Params.maxSteps (p : Params) : Nat := p.numDrive * (65535 + 2) + 1

/-- LAYOUT is exactly N_ROWS × N_COLS (00_scope R6). -/
def Params.layoutShaped (p : Params) : Bool :=
  decide (p.layout.length = p.nRows) && p.layout.all fun row => decide (row.length = p.nCols)

/-- KEYMAP has N_LAYERS layers of exactly K entries (00_scope R4, R6). -/
def Params.keymapShaped (p : Params) : Bool :=
  decide (p.keymap.length = p.nLayers) && p.keymap.all fun layer => decide (layer.length = p.numKeys)

/-- Every parameter is in the legal range of 00_scope R4 and has the shape of R6; T_CMD_MAX and F_CLK meet the
constraints of 92's table of open parameters (log 15). DIR and MODE_RESET have no illegal value of their types. -/
def Params.legal (p : Params) : Bool :=
  decide (1 ≤ p.nRows ∧ p.nRows ≤ 32) && decide (1 ≤ p.nCols ∧ p.nCols ≤ 32) && p.layoutShaped
    && decide (1 ≤ p.numKeys) && decide (1 ≤ p.nLayers ∧ p.nLayers ≤ 5) && p.keymapShaped
    && decide (p.settleReset ≤ 65535) && decide (p.maxSteps ≤ p.tCmdMax) && decide (0 < p.fClk)

end Sys2Proof
end

