-- ==== Sys2Proof/Machine/Operands.lean ====
section
/-! DEFINITION. The implicit operands of the commands (30_encoding R71): the bits and words of BITMAP, the bytes and
words of the report buffer, the keycode of a bit index and its class, and the Sample draw. -/

namespace Sys2Proof.Machine

/-! ### BITMAP (10_state R31, R32) -/

/-- BM[i] (00_scope R10); bits at or above K are hardwired 0 (10_state R31). -/
def Block.key (p : Params) (b : Block) (i : Nat) : Bool := decide (i < p.numKeys) && b.bitmap.getLsbD i

/-- BITMAP[w], with the bits at or above K hardwired 0 (10_state R31). -/
def Block.bitmapWord (p : Params) (b : Block) (w : Nat) : Word := (b.bitmap &&& p.keyMask).extractLsb' (32 * w) 32

/-- The bits of BITMAP[w] within the bitmap. -/
def wordMask (w : Nat) : KeyBits := (BitVec.allOnes 32).setWidth 1024 <<< (32 * w)

/-- BITMAP[w] <- v on the bits below K (10_state R32). -/
def Block.putBitmapWord (p : Params) (b : Block) (w : Nat) (v : Word) : Block :=
  { b with bitmap := (b.bitmap &&& ~~~wordMask w) ||| ((v.setWidth 1024 <<< (32 * w)) &&& p.keyMask) }

/-! ### The report buffer (10_state R33) -/

/-- RB[j]. -/
def reportByte (rb : Report) (j : Nat) : Byte := rb.getD j 0

/-- RB[j] <- v. -/
def putReport (rb : Report) (j : Nat) (v : Byte) : Report := rb.setIfInBounds j v

/-- RB[j] <- RB[j] | v. -/
def orReport (rb : Report) (j : Nat) (v : Byte) : Report := putReport rb j (reportByte rb j ||| v)

/-- REPORT[m] = RB[4m+3], RB[4m+2], RB[4m+1], RB[4m], the last in bits 7:0 (10_state R33, 20_memory R53). -/
def reportWord (rb : Report) (m : Nat) : Word :=
  reportByte rb (4 * m + 3) ++ reportByte rb (4 * m + 2) ++ reportByte rb (4 * m + 1) ++ reportByte rb (4 * m)

/-! ### Keycodes (42_encode R120, R121) -/

/-- The three classes of a keycode (42_encode R121). -/
inductive KeyClass where
  | normal
  | modifier
  | ignored
  deriving DecidableEq, Repr

/-- class(k) (42_encode R121). -/
def keyClass (k : Byte) : KeyClass :=
  if 0x04 ≤ k ∧ k ≤ 0xDD then .normal
  else if 0xE0 ≤ k ∧ k ≤ 0xE7 then .modifier
  else .ignored

/-- modmask(k) = 1 << (k & 7), 8 bits (42_encode R121). -/
def modMask (k : Byte) : Byte := 1#8 <<< (k &&& 0x07).toNat

/-- The keycode of bit index i in layer L (42_encode R120). -/
def keycode (p : Params) (l : BitVec 3) (i : Nat) : Byte := p.keymapEntry l.toNat i

/-! ### The Sample draw (41_scan R104) -/

/-- The levels the environment answers with: those it has supplied, else a free value. -/
def Env.sample (e : Env) : Levels :=
  match e.samples with
  | lv :: _ => lv
  | [] => Config.freeSample e.draws

/-- The environment after the draw. -/
def Env.sampled (e : Env) : Env :=
  match e.samples with
  | _ :: rest => { e with samples := rest }
  | [] => { e with draws := e.draws + 1 }

end Sys2Proof.Machine
end

