-- ==== Sys2Proof/Machine/Ops.lean ====
section
/-! DEFINITION. The named operations the commands and the agents share: accepting a command, dropping one, the drive
lines, reset, and when each agent may move. The block has no trap entry (60 R150, R157): `Block.raiseErrCmd` and
`Block.raiseErrBusy` are all an error does, and `Block.reset` is what `rst` does. -/

namespace Sys2Proof.Machine

/-- The state with another block state. -/
def State.withBlk (s : State) (b : Block) : State := { s with blk := b }

/-- The bus port takes transactions: `rst` is low (70 R172) and the block is clocked (60 R163, log 9). -/
def Env.portOpen (e : Env) : Bool := !e.rst && e.clkOn

/-! ### Accepting a command (40_command R86, R87) -/

/-- The latches of an accepted command, and BUSY (R86, R87). -/
def Block.latch (b : Block) (op : Op) : Block :=
  { b with opL := op, modeL := b.mode, layerL := b.layer, settleL := b.settle, busy := true }

/-- accept(op) (40_command R86): SCAN and SCAN_ENCODE start at drive line 0 with an empty accumulator, ENCODE at its
ENC step. DONE, ERR_CMD and ERR_BUSY stay. -/
def Block.accept (b : Block) (op : Op) : Block :=
  match op with
  | .scan | .scanEncode => { b.latch op with acc := 0, d := 0, phase := .assert }
  | .encode => { b.latch op with phase := .enc }

/-- A CMD write of a command's opcode: accepted when idle, dropped with ERR_BUSY while busy (40_command R85, R86).
A write that meets a closed port has no effect (70 R172; log 8, log 9). -/
def startCommand (op : Op) (s : State) : Host.Outcome State Fault Refusal :=
  if s.env.portOpen then
    if s.blk.busy then .next (s.withBlk s.blk.raiseErrBusy)
    else .next (s.withBlk (s.blk.accept op))
  else .next s

/-- A CMD write of a reserved opcode: ERR_BUSY while busy, ERR_CMD when idle, nothing else (40_command R89). -/
def reservedCommand (s : State) : Host.Outcome State Fault Refusal :=
  if s.env.portOpen then
    if s.blk.busy then .next (s.withBlk s.blk.raiseErrBusy)
    else .next (s.withBlk s.blk.raiseErrCmd)
  else .next s

/-! ### Drive lines (10_state R36, R37) -/

/-- drive[j] <- 0. -/
def driveLow (lv : Levels) (j : Nat) : Levels := lv &&& ~~~BitVec.twoPow 32 j

/-- drive[j] <- 1. -/
def driveHigh (lv : Levels) (j : Nat) : Levels := lv ||| BitVec.twoPow 32 j

/-! ### Reset and the enabling of the agents (70 R170 to R172, 60 R163) -/

/-- While `rst = 1` the block is forced to its reset state (70 R170). -/
def State.holdReset (s : State) : State := if s.env.rst then s.withBlk (Block.reset s.params) else s

/-- The sequencer has a step exactly when phase is not IDLE (40_command R90), `rst` is low (70 R170) and the clock
runs (60 R163). -/
def State.sequencerEnabled (s : State) : Bool := decide (s.blk.phase ≠ .idle) && !s.env.rst && s.env.clkOn

end Sys2Proof.Machine
end

