-- ==== Sys2Proof/Machine/Control.lean ====
section
/-! DEFINITION. The commands that start nothing: NOP (40_command R88) and the reserved opcodes (R89). -/

namespace Sys2Proof.Machine

/-- NOP: no state changes, in any state (40_command R88). -/
def execNop (_ign : BitVec 24) (s : State) : Host.Outcome State Fault Refusal := .next s

/-- RESERVED_04_07 (40_command R89). -/
def execReserved0407 (_op : Byte) (_ign : BitVec 24) (s : State) : Host.Outcome State Fault Refusal :=
  reservedCommand s

/-- RESERVED_08_0F (40_command R89). -/
def execReserved080F (_op : Byte) (_ign : BitVec 24) (s : State) : Host.Outcome State Fault Refusal :=
  reservedCommand s

/-- RESERVED_10_1F (40_command R89). -/
def execReserved101F (_op : Byte) (_ign : BitVec 24) (s : State) : Host.Outcome State Fault Refusal :=
  reservedCommand s

/-- RESERVED_20_3F (40_command R89). -/
def execReserved203F (_op : Byte) (_ign : BitVec 24) (s : State) : Host.Outcome State Fault Refusal :=
  reservedCommand s

/-- RESERVED_40_7F (40_command R89). -/
def execReserved407F (_op : Byte) (_ign : BitVec 24) (s : State) : Host.Outcome State Fault Refusal :=
  reservedCommand s

/-- RESERVED_80_FF (40_command R89). -/
def execReserved80FF (_op : Byte) (_ign : BitVec 24) (s : State) : Host.Outcome State Fault Refusal :=
  reservedCommand s

end Sys2Proof.Machine
end

