-- ==== Sys2Proof/Machine/Encode.lean ====
section
/-! DEFINITION. ENCODE (42_encode): its acceptance, and the report its ENC step builds. -/

namespace Sys2Proof.Machine

/-- ENCODE, OP = 0x02 (42_encode R122): the CMD write. The frame is built by the ENC step that follows. -/
def execEncode (_ign : BitVec 24) (s : State) : Host.Outcome State Fault Refusal := startCommand .encode s

/-- The zero-filled buffer with the report ID in byte 0 (42_encode R131, R132). -/
def freshReport : Report := putReport (Vector.replicate 36 0) 0 0x01

/-- One key of the 6KRO walk: `n` is how many Normal keys have been written (42_encode R123). -/
def sixKroKey (p : Params) (l : BitVec 3) (b : Block) (st : Report × Nat) (i : Nat) : Report × Nat :=
  if b.key p i then
    match keyClass (keycode p l i) with
    | .normal => if st.2 < 6 then (putReport st.1 (3 + st.2) (keycode p l i), st.2 + 1) else st
    | .modifier => (orReport st.1 1 (modMask (keycode p l i)), st.2)
    | .ignored => st
  else st

/-- construct_6kro(L): the walk over ascending bit indices (42_encode R123). -/
def constructSixKro (p : Params) (l : BitVec 3) (b : Block) : Report :=
  ((List.range p.numKeys).foldl (sixKroKey p l b) (freshReport, 0)).1

/-- One key of the NKRO walk (42_encode R128). -/
def nkroKey (p : Params) (l : BitVec 3) (b : Block) (rb : Report) (i : Nat) : Report :=
  if b.key p i then
    match keyClass (keycode p l i) with
    | .normal => orReport rb ((keycode p l i >>> 3).toNat + 2) (modMask (keycode p l i))
    | .modifier => orReport rb 1 (modMask (keycode p l i))
    | .ignored => rb
  else rb

/-- construct_nkro(L) (42_encode R128). -/
def constructNkro (p : Params) (l : BitVec 3) (b : Block) : Report :=
  (List.range p.numKeys).foldl (nkroKey p l b) freshReport

/-- encode(mode_l, layer_l): the frame into RB, its length into RLEN (42_encode R122, R123, R128). -/
def Block.encodeReport (p : Params) (b : Block) : Block :=
  match b.modeL with
  | .sixKro => { b with rb := constructSixKro p b.layerL b, rlen := 9 }
  | .nkro => { b with rb := constructNkro p b.layerL b, rlen := 34 }

end Sys2Proof.Machine
end

