-- ==== Sys2Proof/Machine/Scan.lean ====
section
/-! DEFINITION. SCAN (41_scan): its acceptance, and the block changes of its sequencer steps (40_command R90). -/

namespace Sys2Proof.Machine

/-- SCAN, OP = 0x01 (41_scan R100): the CMD write. The scan itself is made by the sequencer steps that follow. -/
def execScan (_ign : BitVec 24) (s : State) : Host.Outcome State Fault Refusal := startCommand .scan s

/-- One sense check of drive line d (41_scan R105): a low level at a non-empty position sets its bit. -/
def senseCheck (p : Params) (d : Nat) (lv : Levels) (acc : KeyBits) (j : Nat) : KeyBits :=
  if p.wired (p.pos d j).1 (p.pos d j).2 && !lv.getLsbD j then
    acc ||| BitVec.twoPow 1024 (p.idx (p.pos d j).1 (p.pos d j).2)
  else acc

/-- sample_update(d, s) (41_scan R105). -/
def sampleUpdate (p : Params) (d : Nat) (lv : Levels) (acc : KeyBits) : KeyBits :=
  (List.range p.numSense).foldl (senseCheck p d lv) acc

/-- The ASSERT step: make drive line d active and load the settle counter (40_command R90). -/
def Block.assertLine (b : Block) : Block :=
  { b with drive := driveLow b.drive b.d, cnt := b.settleL, phase := .settle }

/-- One settle-wait step (41_scan R103). -/
def Block.settleWait (b : Block) : Block := { b with cnt := b.cnt - 1 }

/-- Sampling drive line d and releasing it (40_command R90, the first three lines of the sample step). -/
def Block.takeSample (p : Params) (lv : Levels) (b : Block) : Block :=
  { b with acc := sampleUpdate p b.d lv b.acc, drive := driveHigh b.drive b.d }

/-- The last line is done: for i in 0..K, BM[i] <- acc[i] (41_scan R106). Bits at or above K are hardwired 0. -/
def Block.publishScan (p : Params) (b : Block) : Block := { b with bitmap := b.acc &&& p.keyMask }

/-- What follows the sample of drive line d: the next line, or the end of the scan (40_command R90). -/
def Block.afterSample (p : Params) (b : Block) : Block :=
  if b.d + 1 < p.numDrive then { b with d := b.d + 1, phase := .assert }
  else if b.opL = .scanEncode then { b.publishScan p with phase := .enc }
  else (b.publishScan p).finish

/-- The sample step of drive line d with the levels lv (40_command R90). -/
def Block.sampleStep (p : Params) (lv : Levels) (b : Block) : Block := (b.takeSample p lv).afterSample p

end Sys2Proof.Machine
end

