-- ==== Sys2Proof/Machine/ScanEncode.lean ====
section
/-! DEFINITION. SCAN_ENCODE (43_scan_encode): its acceptance. Its sequencer steps are SCAN's, with the ENC step of
ENCODE before the one finish (40_command R90). -/

namespace Sys2Proof.Machine

/-- SCAN_ENCODE, OP = 0x03 (43_scan_encode R140): the CMD write. -/
def execScanEncode (_ign : BitVec 24) (s : State) : Host.Outcome State Fault Refusal := startCommand .scanEncode s

end Sys2Proof.Machine
end

