-- ==== Sys2Proof/Machine/Dispatch.lean ====
section
/-! DEFINITION. A command word written to CMD, by constructor: one direct call of its meaning (40_command R85). -/

namespace Sys2Proof.Machine

def exec (i : Instr) (s : State) : Host.Outcome State Fault Refusal :=
  match i with
  | .nop ign => Sys2Proof.Machine.execNop ign s
  | .scan ign => Sys2Proof.Machine.execScan ign s
  | .encode ign => Sys2Proof.Machine.execEncode ign s
  | .scanEncode ign => Sys2Proof.Machine.execScanEncode ign s
  | .reserved0407 op ign => Sys2Proof.Machine.execReserved0407 op ign s
  | .reserved080F op ign => Sys2Proof.Machine.execReserved080F op ign s
  | .reserved101F op ign => Sys2Proof.Machine.execReserved101F op ign s
  | .reserved203F op ign => Sys2Proof.Machine.execReserved203F op ign s
  | .reserved407F op ign => Sys2Proof.Machine.execReserved407F op ign s
  | .reserved80FF op ign => Sys2Proof.Machine.execReserved80FF op ign s

end Sys2Proof.Machine
end

