-- ==== Sys2Proof/Machine/Registers.lean ====
section
/-! DEFINITION. The registers as the bus sees them: the word each read returns and the effect of each write but a
command's (10_state R23 to R34, 20_memory R52 to R56). -/

namespace Sys2Proof.Machine

/-! ### Offsets (20_memory R52) -/

/-- The word an access addresses: `a & 0x3FFC` (20_memory R54). -/
def wordOffset (a : Addr) : Nat := (a &&& 0x3FFC).toNat

/-- Offset of CMD. -/
def cmdAddr : Addr := 0x000C

/-- Offset of CTRL. -/
def ctrlAddr : Addr := 0x0008

/-- Offset of STATUS. -/
def statusAddr : Addr := 0x0010

/-- Offset of SETTLE. -/
def settleAddr : Addr := 0x0014

/-- The offset lies in the BITMAP array or among its unused words. -/
def inBitmap (o : Nat) : Bool := decide (0x0040 ≤ o ∧ o ≤ 0x00BC)

/-- The w of BITMAP[w] at an offset. -/
def bitmapIndex (o : Nat) : Nat := (o - 0x0040) / 4

/-- The offset lies in the REPORT window. -/
def inReport (o : Nat) : Bool := decide (0x00C0 ≤ o ∧ o ≤ 0x00E0)

/-- The m of REPORT[m] at an offset. -/
def reportIndex (o : Nat) : Nat := (o - 0x00C0) / 4

/-- The offset lies in the KEYMAP ROM. -/
def inKeymap (o : Nat) : Bool := decide (0x1000 ≤ o ∧ o ≤ 0x23FC)

/-- The layer of a KEYMAP offset. -/
def keymapLayer (o : Nat) : Nat := (o - 0x1000) / 0x400

/-- The q of a KEYMAP offset: its word holds entries 4q to 4q+3. -/
def keymapIndex (o : Nat) : Nat := ((o - 0x1000) % 0x400) / 4

/-! ### Reads -/

/-- CFG0 (10_state R23, R39). -/
def cfg0 (p : Params) : Word :=
  0#9 ++ BitVec.ofNat 3 p.nLayers ++ 0#3 ++ BitVec.ofBool p.dirBit ++ 0#2 ++ BitVec.ofNat 6 p.nCols ++ 0#2
    ++ BitVec.ofNat 6 p.nRows

/-- CFG1 (10_state R24, R39). -/
def cfg1 (p : Params) : Word := 0#10 ++ BitVec.ofNat 6 p.numWords ++ 0#5 ++ BitVec.ofNat 11 p.numKeys

/-- CTRL.MODE as a bit (10_state R25). -/
def modeBit (m : Mode) : Bool :=
  match m with
  | .sixKro => false
  | .nkro => true

/-- CTRL.MODE from a bit (10_state R25). -/
def modeOfBit (b : Bool) : Mode := if b then .nkro else .sixKro

/-- The word a read of CTRL returns; reserved bits read 0 (20_memory R55). -/
def Block.ctrlWord (b : Block) : Word :=
  0#23 ++ BitVec.ofBool b.ie ++ 0#1 ++ b.layer ++ 0#3 ++ BitVec.ofBool (modeBit b.mode)

/-- The word a read of SETTLE returns (20_memory R55). -/
def Block.settleWord (b : Block) : Word := b.settle.setWidth 32

/-- The KEYMAP word holding entries 4q to 4q+3 of layer L (10_state R34). -/
def keymapWord (p : Params) (l q : Nat) : Word :=
  p.keymapEntry l (4 * q + 3) ++ p.keymapEntry l (4 * q + 2) ++ p.keymapEntry l (4 * q + 1) ++ p.keymapEntry l (4 * q)

/-- read(o) of 20_memory R55, but for the two cases where it is ANY32. -/
def regWord (p : Params) (b : Block) (o : Nat) : Word :=
  if o = 0x0000 then cfg0 p
  else if o = 0x0004 then cfg1 p
  else if o = 0x0008 then b.ctrlWord
  else if o = 0x000C then 0
  else if o = 0x0010 then b.statusWord
  else if o = 0x0014 then b.settleWord
  else if inBitmap o then
    if bitmapIndex o < p.numWords then b.bitmapWord p (bitmapIndex o) else 0
  else if inReport o then reportWord b.rb (reportIndex o)
  else if inKeymap o then keymapWord p (keymapLayer o) (keymapIndex o)
  else 0

/-- A read of this offset returns ANY32: a BITMAP word or a REPORT word while busy (20_memory R55, R59), and any word
while `rst = 1` (70 R172). -/
def State.readsFree (s : State) (o : Nat) : Bool :=
  s.env.rst || (s.blk.busy && ((inBitmap o && decide (bitmapIndex o < s.params.numWords)) || inReport o))

/-! ### Writes -/

/-- CTRL write (10_state R26): LAYER keeps its value where v[6:4] names no layer; reserved bits are ignored. -/
def Block.writeCtrl (p : Params) (b : Block) (v : Word) : Block :=
  { b with
    mode := modeOfBit (v.getLsbD 0)
    ie := v.getLsbD 8
    layer := if (v.extractLsb' 4 3).toNat < p.nLayers then v.extractLsb' 4 3 else b.layer }

/-- SETTLE write (10_state R27). -/
def Block.writeSettle (b : Block) (v : Word) : Block := { b with settle := v.setWidth 16 }

/-- BITMAP write with w < NW (10_state R32): dropped with ERR_BUSY while busy. -/
def Block.writeBitmap (p : Params) (b : Block) (w : Nat) (v : Word) : Block :=
  if b.busy then b.raiseErrBusy else b.putBitmapWord p w v

/-- The writes of 20_memory R56 but the command write; every other place ignores the write. -/
def Block.writeReg (p : Params) (b : Block) (o : Nat) (v : Word) : Block :=
  if o = 0x0008 then b.writeCtrl p v
  else if o = 0x0010 then b.clearFlags v
  else if o = 0x0014 then b.writeSettle v
  else if inBitmap o && decide (bitmapIndex o < p.numWords) then b.writeBitmap p (bitmapIndex o) v
  else b

end Sys2Proof.Machine
end

