-- ==== Sys2Proof/Machine/Bus.lean ====
section
/-! DEFINITION. The register-bus slave port: the two transactions MemRead and MemWrite (00_scope R11, 20_memory R50 to
R56). -/

namespace Sys2Proof.Machine

/-- The value `MemRead(a, 4)` returns (20_memory R55); ANY32 is the next free value. -/
def busReadValue (a : Addr) (s : State) : Word :=
  if s.readsFree (wordOffset a) then Config.anyRead s.env.draws else regWord s.params s.blk (wordOffset a)

/-- The state after `MemRead(a, 4)`: a read changes no state of the block (20_memory R55, R57); a drawn value is used
up. -/
def busReadState (a : Addr) (s : State) : State :=
  if s.readsFree (wordOffset a) then { s with env := { s.env with draws := s.env.draws + 1 } } else s

/-- `MemWrite(a, 4, v)` (20_memory R56). A write to CMD runs the command word (40_command R85). A write that meets a
closed port has no effect (70 R172; log 8, log 9). -/
def busWrite (a : Addr) (v : Word) (s : State) : Host.Outcome State Fault Refusal :=
  if wordOffset a = 0x000C then exec (decode v) s
  else if s.env.portOpen then .next (s.withBlk (s.blk.writeReg s.params (wordOffset a) v))
  else .next s

end Sys2Proof.Machine
end

