-- ==== Sys2Proof/Machine/HostProgram.lean ====
section
/-! DEFINITION. The host agent (00_scope R13): its temporaries, its program lines (30_encoding R75) and the
pseudo-instructions of R76. All but the bus transactions is the host's own; the block sees only those. -/

namespace Sys2Proof.Machine

/-! ### Host temporaries: a list of keys and values, keys rising, no value 0 (log 4) -/

/-- The value of a temporary; one never written holds 0. -/
def tempGet (m : List (Nat × Word)) (t : Nat) : Word :=
  match m with
  | [] => 0
  | (k, v) :: rest => if k = t then v else tempGet rest t

/-- The list with temporary t at v; the value 0 removes the entry. -/
def tempSet (m : List (Nat × Word)) (t : Nat) (v : Word) : List (Nat × Word) :=
  match m with
  | [] => if v = 0 then [] else [(t, v)]
  | (k, w) :: rest =>
    if t < k then if v = 0 then (k, w) :: rest else (t, v) :: (k, w) :: rest
    else if t = k then if v = 0 then rest else (t, v) :: rest
    else (k, w) :: tempSet rest t v

/-- The canonical form: keys strictly rising, no value 0. -/
def tempsWf (m : List (Nat × Word)) : Bool :=
  match m with
  | [] => true
  | (k, v) :: rest => decide (v ≠ 0) && rest.all (fun e => decide (k < e.1)) && tempsWf rest

/-! ### Lines -/

/-- The line the host performs next; none past the end of the program. -/
def HostAgent.current (h : HostAgent) : Option HostLine := h.prog[h.line]?

/-- The line is a bus transaction (30_encoding R75). -/
def HostLine.isBus : HostLine → Bool
  | .wr _ _ | .rd _ _ | .rdCheck _ _ | .wrNarrow _ _ _ | .rdNarrow _ _ _ => true
  | .label _ | .bz _ _ _ | .bnz _ _ _ => false

/-- The line is `label:` for this label. -/
def HostLine.isLabel (l : Nat) : HostLine → Bool
  | .label k => decide (k = l)
  | _ => false

/-- Where a label stands in the program. -/
def HostAgent.labelLine (h : HostAgent) (l : Nat) : Option Nat := h.prog.findIdx? (HostLine.isLabel l)

/-- The state with another host. -/
def State.withHost (s : State) (h : HostAgent) : State := { s with env := { s.env with host := h } }

/-- The host goes on to its next line. -/
def State.advance (s : State) : State := s.withHost { s.env.host with line := s.env.host.line + 1 }

/-- The host notes a value it has read (70 R187). -/
def HostAgent.note (h : HostAgent) (v : Word) : HostAgent := { h with reads := h.reads ++ [v] }

/-- `RD off -> t`: one read transaction, its value into t. -/
def hostRead (a : Addr) (t : Nat) (s : State) : State :=
  let h := s.env.host.note (busReadValue a s)
  (busReadState a s).withHost { h with temps := tempSet h.temps t (busReadValue a s) }

/-- `RD off == v`: one read transaction; a different value is noted as a failed check (log 19). -/
def hostCheck (a : Addr) (v : Word) (s : State) : State :=
  let h := s.env.host.note (busReadValue a s)
  (busReadState a s).withHost { h with failed := h.failed || decide (busReadValue a s ≠ v) }

/-- A host branch that is taken goes to its label (log 18). -/
def hostGoto (l : Nat) (s : State) : Host.Outcome State Fault Refusal :=
  match s.env.host.labelLine l with
  | some n => .next (s.withHost { s.env.host with line := n })
  | none => .refused (.unknownLabel l)

/-- One line, the host having gone on to the next (30_encoding R75). A narrow read is presented as a 32-bit read and
its lanes are the interconnect's; a narrow write is refused (20_memory R54, log 14). -/
def runLine (line : HostLine) (s : State) : Host.Outcome State Fault Refusal :=
  match line with
  | .wr a v => busWrite a v s
  | .rd a t => .next (hostRead a t s)
  | .rdCheck a v => .next (hostCheck a v s)
  | .label _ => .next s
  | .bz t m l => if tempGet s.env.host.temps t &&& m = 0 then hostGoto l s else .next s
  | .bnz t m l => if tempGet s.env.host.temps t &&& m = 0 then .next s else hostGoto l s
  | .wrNarrow _ _ _ => .refused .narrowWrite
  | .rdNarrow _ a t => .next (hostRead a t s)

/-- The host can move: it has a line, and a bus line finds the port open ("A model gives the host no bus step while
rst = 1", 70 R172). -/
def State.hostEnabled (s : State) : Bool :=
  match s.env.host.current with
  | some line => !line.isBus || s.env.portOpen
  | none => false

/-- One step of the host: its next line, once. -/
def hostStep (s : State) : Host.Outcome State Fault Refusal :=
  match s.env.host.current with
  | some line => if !line.isBus || s.env.portOpen then runLine line s.advance else .next s
  | none => .next s

/-! ### Pseudo-instructions (30_encoding R76) -/

/-- `NOP` -/
def hostNop : List HostLine := [.wr 0x00C 0x00000000]

/-- `SCAN` -/
def hostScan : List HostLine := [.wr 0x00C 0x00000001]

/-- `ENCODE` -/
def hostEncode : List HostLine := [.wr 0x00C 0x00000002]

/-- `SCAN_ENCODE` -/
def hostScanEncode : List HostLine := [.wr 0x00C 0x00000003]

/-- `SETMODE m, L, ie` -/
def hostSetMode (m l ie : Word) : List HostLine := [.wr 0x008 ((ie <<< 8) ||| (l <<< 4) ||| m)]

/-- `SETSETTLE n` -/
def hostSetSettle (n : BitVec 16) : List HostLine := [.wr 0x014 (n.setWidth 32)]

/-- `CLRALL` -/
def hostClrAll : List HostLine := [.wr 0x010 0x0000000E]

/-- `WAITIDLE`, with label w and temporary t. -/
def hostWaitIdle (w t : Nat) : List HostLine := [.label w, .rd 0x010 t, .bnz t 0x1 w]

/-- `WAITDONE`, with label w and temporary t. -/
def hostWaitDone (w t : Nat) : List HostLine := [.label w, .rd 0x010 t, .bz t 0x2 w]

end Sys2Proof.Machine
end

