-- ==== Sys2Proof/Machine/Sequencer.lean ====
section
/-! DEFINITION. The sequencer agent (40_command R90): its one step as a function of the block and of the levels the
matrix answers, that step on the machine, and how many steps a command still takes (R91). -/

namespace Sys2Proof.Machine

/-- seq_step() on the block, the draw Sample(d) given as `lv` (40_command R90). It has no step while phase is IDLE. -/
def Block.seqStep (p : Params) (lv : Levels) (b : Block) : Block :=
  match b.phase with
  | .idle => b
  | .assert => b.assertLine
  | .settle => if b.cnt = 0 then b.sampleStep p lv else b.settleWait
  | .enc => (b.encodeReport p).finish

/-- The step draws a Sample: the settle wait of the current line is over (40_command R90). -/
def Block.samplesNow (b : Block) : Bool := decide (b.phase = .settle) && decide (b.cnt = 0)

/-- seq_step() on the machine: the sample step takes the matrix's answer (00_scope R13), every other step takes
nothing from outside. -/
def sequencerStep (s : State) : State :=
  { s with
    blk := s.blk.seqStep s.params s.env.sample
    env := if s.blk.samplesNow then s.env.sampled else s.env }

/-- The block after n sequencer steps, where `answer d` is what the matrix answers for drive line d in this scan. -/
def Block.runSeq (p : Params) (answer : Nat → Levels) : Nat → Block → Block
  | 0, b => b
  | n + 1, b => Block.runSeq p answer n (b.seqStep p (answer b.d))

/-- The ENC step SCAN_ENCODE still has to make after its scan. -/
def Op.encSteps : Op → Nat
  | .scanEncode => 1
  | _ => 0

/-- The number of sequencer steps from here to the end of the running command, its `finish()` step among them
(40_command R91). -/
def Block.stepsLeft (p : Params) (b : Block) : Nat :=
  match b.phase with
  | .idle => 0
  | .enc => 1
  | .assert => (p.numDrive - b.d) * (b.settleL.toNat + 2) + b.opL.encSteps
  | .settle => b.cnt.toNat + 1 + (p.numDrive - (b.d + 1)) * (b.settleL.toNat + 2) + b.opL.encSteps

end Sys2Proof.Machine
end

