-- ==== Sys2Proof/Machine/Schedule.lean ====
section
/-! DEFINITION. Whose turn it is, and what a turn does (20_memory R60: an interleaving of atomic steps; 70 R170 and
60 R163: the pins). -/

namespace Sys2Proof.Machine

/-- Where both agents can move, the host does as long as it has turns left ahead of the sequencer's next step: a free
number of them, so that the choice is free and the sequencer is never starved (20_memory R60, 70 R183; log 5). -/
def Env.hostFirst (e : Env) : Bool := decide (e.waited < Config.hostTurns e.picks)

/-- The contended choice noted: a host turn more, or a sequencer step with a new number to come. -/
def Env.contended (e : Env) : Env :=
  if e.hostFirst then { e with waited := e.waited + 1 } else { e with waited := 0, picks := e.picks + 1 }

/-- The turn taken next. A given turn is taken. Where none is given, the agent that can move does, and where both can
the choice is free, weakly fair to the sequencer (log 5). -/
def State.nextTurn (s : State) : Option Turn :=
  match s.env.turns with
  | t :: _ => some t
  | [] =>
    match s.hostEnabled, s.sequencerEnabled with
    | true, true => some (if s.env.hostFirst then .host else .sequencer)
    | true, false => some .host
    | false, true => some .sequencer
    | false, false => none

/-- The state with that turn used up: a given turn leaves the list, a contended choice is noted. -/
def State.useTurn (s : State) : State :=
  match s.env.turns with
  | _ :: rest => { s with env := { s.env with turns := rest } }
  | [] =>
    if s.hostEnabled && s.sequencerEnabled then { s with env := s.env.contended } else s

/-- `rst` goes to 1: the block is in its reset state at once, with the clock running or not (70 R170, R171). -/
def assertReset (s : State) : State :=
  { s with blk := Block.reset s.params, env := { s.env with rst := true } }

/-- `rst` goes to 0: the block is idle in its reset state (70 R170; log 10). -/
def releaseReset (s : State) : State := { s with env := { s.env with rst := false } }

/-- `clk` stops or runs again (60 R163). -/
def setClock (on : Bool) (s : State) : State := { s with env := { s.env with clkOn := on } }

/-- What a turn does. An agent that cannot move lets its turn pass. -/
def takeTurn (t : Turn) (s : State) : Host.Outcome State Fault Refusal :=
  match t with
  | .host => hostStep s
  | .sequencer => .next (if s.sequencerEnabled then sequencerStep s else s)
  | .assertRst => .next (assertReset s)
  | .releaseRst => .next (releaseReset s)
  | .stopClk => .next (setClock false s)
  | .startClk => .next (setClock true s)

/-- One step of the machine on a legal elaboration: while `rst = 1` the block is held in its reset state (70 R170),
then the next turn is taken; with nothing to do nothing changes. -/
def runStep (s : State) : Host.Outcome State Fault Refusal :=
  match s.holdReset.nextTurn with
  | some t => takeTurn t s.holdReset.useTurn
  | none => .next s.holdReset

/-- The command word a table word stands for: bits at or above `nbits` are 0. -/
def tableCommand (nbits w : Nat) : Word := BitVec.ofNat 32 (w % 2 ^ nbits)

/-- A state whose very next step writes this command word to CMD: the host program is that one write, it is the
host's turn, and the port is open (log 4: a host program is loaded from outside). -/
def State.withCommand (s : State) (v : Word) : State :=
  { s with env := { s.env with
      rst := false
      clkOn := true
      turns := .host :: s.env.turns
      host := { s.env.host with prog := [.wr cmdAddr v], line := 0 } } }

end Sys2Proof.Machine
end

