-- ==== Sys2Proof/Machine/Step.lean ====
section
/-! DEFINITION. One step of the machine. -/

namespace Sys2Proof.Machine

/-- One step: an illegal elaboration is refused, since no block is produced (00_scope R6, 93); else the next turn of
an agent or a pin is taken (20_memory R60). -/
def step (s : State) : Host.Outcome State Fault Refusal :=
  if s.params.legal then runStep s else .refused .illegalElaboration

/-- `s` with a command word placed where the next step takes it: the host's next line writes it to CMD. -/
def State.withFetchWord (s : State) (nbits w : Nat) : State := s.withCommand (tableCommand nbits w)

end Sys2Proof.Machine
end

