-- ==== Sys2Proof/Safety.lean ====
section
/-! DEFINITION. The invariants of the machine and the words claims are stated in. -/

namespace Sys2Proof

/-- The instruction is one of the six reserved rows (30_encoding R73). -/
def Instr.isReserved : Instr → Bool
  | .reserved0407 _ _ | .reserved080F _ _ | .reserved101F _ _ => true
  | .reserved203F _ _ | .reserved407F _ _ | .reserved80FF _ _ => true
  | .nop _ | .scan _ | .encode _ | .scanEncode _ => false

end Sys2Proof

namespace Sys2Proof.Machine

/-- BUSY and phase agree (10_state R35: "`STATUS.BUSY = 1` if and only if `phase ≠ IDLE`"). -/
def Block.busyAgrees (b : Block) : Prop := b.busy = true ↔ b.phase ≠ .idle

/-- The drive lines follow the phase (10_state R37): line d alone is low while phase is SETTLE, and every line is high
otherwise. -/
def Block.driveAgrees (b : Block) : Prop :=
  b.drive = if b.phase = .settle then driveLow allHigh b.d else allHigh

/-- A command in a scan phase is a scanning command on a line of the matrix; one in its ENC step is an encoding
command (40_command R86, R90). -/
def Block.phaseAgrees (p : Params) (b : Block) : Prop :=
  ((b.phase = .assert ∨ b.phase = .settle) → b.d < p.numDrive ∧ b.opL ≠ .encode) ∧ (b.phase = .enc → b.opL ≠ .scan)

/-- LAYER and its latch name a layer (10_state R26, R35). -/
def Block.layersLegal (p : Params) (b : Block) : Prop := b.layer.toNat < p.nLayers ∧ b.layerL.toNat < p.nLayers

/-- No bit at or above K is set, in the bitmap or in the accumulator (10_state R31, R35). -/
def Block.bitsBelowK (p : Params) (b : Block) : Prop :=
  ∀ i, p.numKeys ≤ i → b.bitmap.getLsbD i = false ∧ b.acc.getLsbD i = false

/-- The settle counter never exceeds what it was loaded from (60 R159). -/
def Block.countBounded (b : Block) : Prop := b.phase = .settle → b.cnt ≤ b.settleL

/-- RLEN is 0, 9 or 34 (10_state R28), and the report buffer is 0 from RLEN on (10_state R33). -/
def Block.reportAgrees (b : Block) : Prop :=
  (b.rlen = 0 ∨ b.rlen = 9 ∨ b.rlen = 34) ∧ (∀ j, b.rlen.toNat ≤ j → reportByte b.rb j = 0)
    ∧ (b.rlen ≠ 0 → reportByte b.rb 0 = 0x01)

/-- The block invariant. -/
structure Block.Inv (p : Params) (b : Block) : Prop where
  busy : b.busyAgrees
  drive : b.driveAgrees
  phase : b.phaseAgrees p
  layers : b.layersLegal p
  bits : b.bitsBelowK p
  count : b.countBounded
  report : b.reportAgrees

/-- The machine invariant: a legal elaboration, the block invariant, the reset state while `rst = 1` (70 R170), and
the host's temporaries in canonical form. -/
structure State.Inv (s : State) : Prop where
  legal : s.params.legal = true
  blk : s.blk.Inv s.params
  held : s.env.rst = true → s.blk = Block.reset s.params
  temps : tempsWf s.env.host.temps = true

/-- The state an outcome goes on with. -/
def nextOf (o : Host.Outcome State Fault Refusal) : Option State :=
  match o with
  | .next s => some s
  | .fault _ => none
  | .refused _ => none

/-- A line the host can perform: no narrow write, and a branch names a label of the program. -/
def HostAgent.lineOk (h : HostAgent) (line : HostLine) : Bool :=
  match line with
  | .wrNarrow _ _ _ => false
  | .bz _ _ l | .bnz _ _ l => (h.labelLine l).isSome
  | _ => true

/-- A host program all of whose lines can be performed. -/
def HostAgent.ok (h : HostAgent) : Bool := h.prog.all h.lineOk

/-- The turn is an agent's, not a pin's. -/
def Turn.isAgent : Turn → Bool
  | .host | .sequencer => true
  | _ => false

/-- An infinite run of the machine: every step goes on. -/
def IsRun (r : Nat → State) : Prop := ∀ k, step (r k) = .next (r (k + 1))

/-- The next step is a step of the sequencer (40_command R90). -/
def State.sequencerMoves (s : State) : Bool := decide (s.nextTurn = some .sequencer) && s.sequencerEnabled

/-- Weak fairness (20_memory R60, 70 R183): a sequencer that can move from some point on does move after it. -/
def WeaklyFair (r : Nat → State) : Prop :=
  ∀ k, (∀ j, k ≤ j → (r j).sequencerEnabled = true) → ∃ j, k ≤ j ∧ (r j).sequencerMoves = true

/-- The run has ended (70 R187): the host has performed its last line and no command is running. DESIGN CHOICE, unsafe
(log 25): a command that `rst` abandoned is not waited for. R171 says that it never finishes and R187 waits for its
finish, so the spec leaves open when such a run ends; here it has ended once phase is IDLE, however it became IDLE. -/
def State.ended (s : State) : Bool := s.env.host.current.isNone && decide (s.blk.phase = .idle)

/-- What can be observed of the block (10_state R35): all of it, but the latches while it is idle. -/
def Block.observable (b : Block) : Block :=
  if b.phase = .idle then
    { b with opL := .scan, modeL := .sixKro, layerL := 0, settleL := 0, d := 0, cnt := 0, acc := 0 }
  else b

/-- The values of `drive_n` after acceptance and after each of n sequencer steps (41_scan R110). -/
def Block.driveTrace (p : Params) (answer : Nat → Levels) : Nat → Block → List Levels
  | 0, b => [b.drive]
  | n + 1, b => b.drive :: Block.driveTrace p answer n (b.seqStep p (answer b.d))

/-- The waveform of one drive line (41_scan R110): low for settle_l + 1 step boundaries, then all lines high. -/
def lineWave (settle : Nat) (d : Nat) : List Levels :=
  List.replicate (settle + 1) (driveLow allHigh d) ++ [allHigh]

/-- The block after an accepted command has run to its end (40_command R91, R92). -/
def Block.runCommand (p : Params) (answer : Nat → Levels) (op : Op) (b : Block) : Block :=
  Block.runSeq p answer ((b.accept op).stepsLeft p) (b.accept op)

/-- A key is pressed and its keycode in the layer is of this class. -/
def Block.pressedAs (p : Params) (l : BitVec 3) (b : Block) (cls : KeyClass) (i : Nat) : Bool :=
  b.key p i && decide (keyClass (keycode p l i) = cls)

/-- The Normal keycodes of the pressed keys in ascending bit-index order (42_encode R124, R125). -/
def Block.normalKeys (p : Params) (l : BitVec 3) (b : Block) : List Byte :=
  ((List.range p.numKeys).filter (b.pressedAs p l .normal)).map (keycode p l)

/-- What can be observed of a run of n steps but the final state (70 R187): the values of `drive_n`, one per state, and
the values the host read. -/
def observeRun : Nat → State → List Levels × List Word
  | 0, s => ([s.blk.drive], s.env.host.reads)
  | n + 1, s =>
    match nextOf (step s) with
    | some t => (s.blk.drive :: (observeRun n t).1, (observeRun n t).2)
    | none => ([s.blk.drive], s.env.host.reads)

end Sys2Proof.Machine
end

