-- ==== Sys2Proof/Certificates/Slice0/Obligations.lean ====
section
/-! DEFINITION. The statements for the provers. Each docstring names the rule of spec/ it formalises.

Where a statement supposes `s.env.clkOn = true` beside `s.env.rst = false`: that a stopped clock closes the bus port is
the model's reading of R163 (log 9). The levels, turns and values that `env` supplies are the model's form of the
spec's draws and free orders (log 5, log 6, log 7). -/

open Sys2Proof Sys2Proof.Machine

/-! ### Encoding (30_encoding) -/

/-- R72: every word of vectors D1 to D4, and one word of each reserved row. -/
def Obligations.DecodeSpecWords : Prop :=
  decode 0x00000000 = .nop 0 ∧ decode 0x00000100 = .nop 1 ∧ decode 0xFFFFFF00 = .nop 0xFFFFFF
    ∧ decode 0x00000001 = .scan 0 ∧ decode 0xFFFFFF01 = .scan 0xFFFFFF ∧ decode 0x00000004 = .reserved0407 0x04 0
    ∧ decode 0x000000FF = .reserved80FF 0xFF 0
    ∧ decode 0x00000002 = .encode 0 ∧ decode 0x00000003 = .scanEncode 0
    ∧ decode 0x00000104 = .reserved0407 0x04 1 ∧ decode 0x0000000F = .reserved080F 0x0F 0
    ∧ decode 0x00000010 = .reserved101F 0x10 0 ∧ decode 0x0000003F = .reserved203F 0x3F 0
    ∧ decode 0x0000005A = .reserved407F 0x5A 0 ∧ decode 0x80000080 = .reserved80FF 0x80 0x800000

/-- R70, R72: decoding the word of a well-formed instruction gives the instruction back, every field kept. -/
def Obligations.DecodeOfEncode : Prop := ∀ i : Instr, i.wellFormed = true → decode (encode i) = i

/-- R72: the opcode map, and every 32-bit word decodes to exactly one row, whose fields are the word's. -/
def Obligations.EveryWordIsOneRow : Prop :=
  ∀ w : Word,
    (w.extractLsb' 0 8 = 0x00 → decode w = .nop (w.extractLsb' 8 24))
      ∧ (w.extractLsb' 0 8 = 0x01 → decode w = .scan (w.extractLsb' 8 24))
      ∧ (w.extractLsb' 0 8 = 0x02 → decode w = .encode (w.extractLsb' 8 24))
      ∧ (w.extractLsb' 0 8 = 0x03 → decode w = .scanEncode (w.extractLsb' 8 24))
      ∧ (0x04 ≤ w.extractLsb' 0 8 → (decode w).isReserved = true)
      ∧ (decode w).wellFormed = true ∧ encode (decode w) = w

/-- R74: bits 31:8 of a command word never matter, for decoding or for execution. -/
def Obligations.IgnoredBitsNeverMatter : Prop :=
  (∀ v w : Word, v.extractLsb' 0 8 = w.extractLsb' 0 8 →
      (decode v).opField = (decode w).opField ∧ ∀ s : State, exec (decode v) s = exec (decode w) s)
    ∧ decode 0xFFFFFF01 = .scan 0xFFFFFF ∧ decode 0x00000100 = .nop 1

/-! ### Commands (40_command) -/

/-- R88: NOP changes nothing, in any state, whatever its ignored bits. -/
def Obligations.NopChangesNothing : Prop :=
  ∀ (ign : BitVec 24) (s : State), exec (.nop ign) s = .next s ∧ decode (commandWord ign 0x00) = .nop ign

/-- R89 (R151, R152): each reserved opcode raises ERR_CMD when idle and ERR_BUSY while busy, and changes nothing else;
every command word with OP at or above 0x04 does so. -/
def Obligations.ReservedOpcodeRaisesOneError : Prop :=
  ∀ s : State, s.env.rst = false → s.env.clkOn = true →
    (∀ (op : Byte) (ign : BitVec 24),
      ∀ i ∈ [Instr.reserved0407 op ign, .reserved080F op ign, .reserved101F op ign, .reserved203F op ign,
          .reserved407F op ign, .reserved80FF op ign],
        exec i s = .next { s with blk :=
          if s.blk.busy then { s.blk with errBusy := true } else { s.blk with errCmd := true } })
      ∧ ∀ w : Word, 0x04 ≤ w.extractLsb' 0 8 →
        exec (decode w) s = .next { s with blk :=
          if s.blk.busy then { s.blk with errBusy := true } else { s.blk with errCmd := true } }

/-- R86, R87, R100: SCAN on an idle block is accepted; the whole next state. -/
def Obligations.ScanAccepted : Prop :=
  ∀ (ign : BitVec 24) (s : State), s.env.rst = false → s.env.clkOn = true → s.blk.busy = false →
    exec (.scan ign) s = .next { s with blk := { s.blk with
      opL := .scan, modeL := s.blk.mode, layerL := s.blk.layer, settleL := s.blk.settle, busy := true
      acc := 0, d := 0, phase := .assert } }

/-- R86, R87, R122: ENCODE on an idle block is accepted; the whole next state. -/
def Obligations.EncodeAccepted : Prop :=
  ∀ (ign : BitVec 24) (s : State), s.env.rst = false → s.env.clkOn = true → s.blk.busy = false →
    exec (.encode ign) s = .next { s with blk := { s.blk with
      opL := .encode, modeL := s.blk.mode, layerL := s.blk.layer, settleL := s.blk.settle, busy := true
      phase := .enc } }

/-- R86, R87, R140: SCAN_ENCODE on an idle block is accepted; the whole next state. -/
def Obligations.ScanEncodeAccepted : Prop :=
  ∀ (ign : BitVec 24) (s : State), s.env.rst = false → s.env.clkOn = true → s.blk.busy = false →
    exec (.scanEncode ign) s = .next { s with blk := { s.blk with
      opL := .scanEncode, modeL := s.blk.mode, layerL := s.blk.layer, settleL := s.blk.settle, busy := true
      acc := 0, d := 0, phase := .assert } }

/-- R86, R152: a command written while busy is dropped with ERR_BUSY, and nothing else changes. -/
def Obligations.BusyBlockDropsCommands : Prop :=
  ∀ (ign : BitVec 24) (s : State), s.env.rst = false → s.env.clkOn = true → s.blk.busy = true →
    ∀ i ∈ [Instr.scan ign, .encode ign, .scanEncode ign],
      exec i s = .next { s with blk := { s.blk with errBusy := true } }

/-- R85: a CMD write, check by check in the order of the rule (the port taking writes). -/
def Obligations.CmdWriteChecksInOrder : Prop :=
  ∀ (a : Addr) (v : Word) (s : State), a &&& 0x3FFC = 0x000C → s.env.rst = false → s.env.clkOn = true →
    busWrite a v s = .next { s with blk := (
      if v.extractLsb' 0 8 = 0x00 then s.blk
      else if s.blk.busy then { s.blk with errBusy := true }
      else if 0x04 ≤ v.extractLsb' 0 8 then { s.blk with errCmd := true }
      else s.blk.accept (if v.extractLsb' 0 8 = 0x01 then .scan else if v.extractLsb' 0 8 = 0x02 then .encode
        else .scanEncode)) }

/-! ### Register writes (10_state, 20_memory) -/

/-- R26: a CTRL write, busy or not; an illegal LAYER value keeps the old one; nothing else changes. -/
def Obligations.CtrlWriteEffect : Prop :=
  ∀ (a : Addr) (v : Word) (s : State), a &&& 0x3FFC = 0x0008 → s.env.rst = false → s.env.clkOn = true →
    busWrite a v s = .next { s with blk := { s.blk with
      mode := if v.getLsbD 0 then .nkro else .sixKro
      ie := v.getLsbD 8
      layer := if (v.extractLsb' 4 3).toNat < s.params.nLayers then v.extractLsb' 4 3 else s.blk.layer } }

/-- R29: a STATUS write clears the written-1 flags among DONE, ERR_CMD and ERR_BUSY, and changes nothing else. -/
def Obligations.StatusWriteClears : Prop :=
  ∀ (a : Addr) (v : Word) (s : State), a &&& 0x3FFC = 0x0010 → s.env.rst = false → s.env.clkOn = true →
    busWrite a v s = .next { s with blk := { s.blk with
      done := if v.getLsbD 1 then false else s.blk.done
      errCmd := if v.getLsbD 2 then false else s.blk.errCmd
      errBusy := if v.getLsbD 3 then false else s.blk.errBusy } }

/-- R27: a SETTLE write sets COUNT to v[15:0] at any time and changes nothing else; SETTLE then reads v[15:0]. -/
def Obligations.SettleWriteAndRead : Prop :=
  ∀ (a : Addr) (v : Word) (s : State), a &&& 0x3FFC = 0x0014 → s.env.rst = false → s.env.clkOn = true →
    ∃ t, busWrite a v s = .next t ∧ t = { s with blk := { s.blk with settle := v.extractLsb' 0 16 } }
      ∧ busReadValue a t = (v.extractLsb' 0 16).setWidth 32

/-- R32: a BITMAP write with w < NW. While busy it raises ERR_BUSY and is dropped; while idle it sets exactly the bits
of word w below K, and a read of the word then returns them. -/
def Obligations.BitmapWriteEffect : Prop :=
  ∀ (w : Nat) (a : Addr) (v : Word) (s : State), s.params.legal = true → w < s.params.numWords →
    (a &&& 0x3FFC).toNat = 0x0040 + 4 * w → s.env.rst = false → s.env.clkOn = true →
    if s.blk.busy then busWrite a v s = .next { s with blk := { s.blk with errBusy := true } }
    else ∃ bm : KeyBits, busWrite a v s = .next { s with blk := { s.blk with bitmap := bm } }
      ∧ (∀ i, i < 1024 → bm.getLsbD i =
          if 32 * w ≤ i ∧ i < 32 * w + 32 then decide (i < s.params.numKeys) && v.getLsbD (i - 32 * w)
          else s.blk.bitmap.getLsbD i)
      ∧ ∀ k, k < 32 → (busReadValue a { s with blk := { s.blk with bitmap := bm } }).getLsbD k =
          (decide (32 * w + k < s.params.numKeys) && v.getLsbD k)

/-- R56: a write to any other place (CFG0, CFG1, REPORT, KEYMAP, unused BITMAP words, unmapped) has no effect. -/
def Obligations.OtherWritesIgnored : Prop :=
  ∀ (a : Addr) (v : Word) (s : State),
    (a &&& 0x3FFC) ≠ 0x0008 → (a &&& 0x3FFC) ≠ 0x000C → (a &&& 0x3FFC) ≠ 0x0010 → (a &&& 0x3FFC) ≠ 0x0014 →
    ¬ (0x0040 ≤ (a &&& 0x3FFC).toNat ∧ (a &&& 0x3FFC).toNat ≤ 0x00BC
        ∧ ((a &&& 0x3FFC).toNat - 0x0040) / 4 < s.params.numWords) →
    busWrite a v s = .next s

/-- R57: every write but a CMD write is idempotent: a second write of the same value changes nothing more. -/
def Obligations.WritesIdempotent : Prop :=
  ∀ (a : Addr) (v : Word) (s t : State), a &&& 0x3FFC ≠ 0x000C → busWrite a v s = .next t → busWrite a v t = .next t

/-! ### Register reads -/

/-- R23, R24: the fields of CFG0 and CFG1 of a legal elaboration, reserved bits 0; NW = ceil(K / 32) (R5); and a bus
read of either register returns it in every state out of reset, idle or busy. -/
def Obligations.ConfigRegisterFields : Prop :=
  ∀ p : Params, p.legal = true →
    (((cfg0 p).extractLsb' 0 6).toNat = p.nRows ∧ (cfg0 p).extractLsb' 6 2 = 0
      ∧ ((cfg0 p).extractLsb' 8 6).toNat = p.nCols ∧ (cfg0 p).extractLsb' 14 2 = 0
      ∧ (cfg0 p).getLsbD 16 = decide (p.dir = .colsDrive) ∧ (cfg0 p).extractLsb' 17 3 = 0
      ∧ ((cfg0 p).extractLsb' 20 3).toNat = p.nLayers ∧ (cfg0 p).extractLsb' 23 9 = 0
      ∧ ((cfg1 p).extractLsb' 0 11).toNat = p.numKeys ∧ (cfg1 p).extractLsb' 11 5 = 0
      ∧ ((cfg1 p).extractLsb' 16 6).toNat = p.numWords ∧ (cfg1 p).extractLsb' 22 10 = 0)
      ∧ (32 * (p.numWords - 1) < p.numKeys ∧ p.numKeys ≤ 32 * p.numWords)
      ∧ ∀ (a : Addr) (s : State), s.params = p → s.env.rst = false →
        (a &&& 0x3FFC = 0x0000 → busReadValue a s = cfg0 p) ∧ (a &&& 0x3FFC = 0x0004 → busReadValue a s = cfg1 p)

/-- R25, R28, R55: what reads of CTRL and STATUS show, bit by bit, in every state out of reset; CMD reads 0. -/
def Obligations.ControlRegistersRead : Prop :=
  ∀ s : State, s.env.rst = false →
    (∀ i, i < 32 → (busReadValue 0x008 s).getLsbD i =
        if i = 0 then decide (s.blk.mode = .nkro) else if 4 ≤ i ∧ i ≤ 6 then s.blk.layer.getLsbD (i - 4)
        else if i = 8 then s.blk.ie else false)
      ∧ (∀ i, i < 32 → (busReadValue 0x010 s).getLsbD i =
        if i = 0 then s.blk.busy else if i = 1 then s.blk.done else if i = 2 then s.blk.errCmd
        else if i = 3 then s.blk.errBusy else if 16 ≤ i ∧ i ≤ 23 then s.blk.rlen.getLsbD (i - 16) else false)
      ∧ busReadValue 0x00C s = 0

/-- R31, R33, R53, R55: while idle, bit b of BITMAP[w] is BM[32w + b], and byte k of REPORT[m] is RB[4m + k]. -/
def Obligations.DataRegistersReadWhileIdle : Prop :=
  ∀ (a : Addr) (s : State), s.env.rst = false → s.blk.busy = false → s.params.legal = true →
    (∀ w b, w < 32 → b < 32 → (a &&& 0x3FFC).toNat = 0x0040 + 4 * w →
        (busReadValue a s).getLsbD b = (decide (32 * w + b < s.params.numKeys) && s.blk.bitmap.getLsbD (32 * w + b)))
      ∧ (∀ m k, m < 9 → k < 4 → (a &&& 0x3FFC).toNat = 0x00C0 + 4 * m →
        (busReadValue a s).extractLsb' (8 * k) 8 = reportByte s.blk.rb (4 * m + k))

/-- R34, R53, R59: byte k of the KEYMAP word at 0x1000 + 0x400 L + 4 q is entry 4q + k of layer L, 0 outside the
keymap, busy or not; and no write changes it. -/
def Obligations.KeymapReadsItsParameter : Prop :=
  ∀ (l q k : Nat) (a : Addr) (s : State), l < 5 → q < 256 → k < 4 →
    (a &&& 0x3FFC).toNat = 0x1000 + 0x400 * l + 4 * q → s.env.rst = false →
    (busReadValue a s).extractLsb' (8 * k) 8 =
        (if l < s.params.nLayers ∧ 4 * q + k < s.params.numKeys then (s.params.keymap.getD l []).getD (4 * q + k) 0
          else 0)
      ∧ ∀ (c : Addr) (v : Word) (t : State), busWrite c v s = .next t → busReadValue a t = busReadValue a s

/-- R54: bits 1:0 of an address are ignored by reads and by writes, and a narrow write is refused. -/
def Obligations.AddressLowBitsIgnored : Prop :=
  ∀ (a : Addr) (v : Word) (s : State),
    busReadValue a s = busReadValue (a &&& 0x3FFC) s ∧ busReadState a s = busReadState (a &&& 0x3FFC) s
      ∧ busWrite a v s = busWrite (a &&& 0x3FFC) v s
      ∧ ∀ n : Narrow, runLine (.wrNarrow n a v) s = .refused .narrowWrite

/-- R55, R57, R59: a read changes no state of the block; and read(o) of R55, row by row, in every state out of reset:
unmapped places and unused BITMAP words are 0, and a BITMAP word with w < NW or a REPORT word while busy is the next
free value (its numbering is the model's, log 7). The fields of CFG0 and CFG1 are ConfigRegisterFields'. -/
def Obligations.ReadsChangeNothingAndAreExact : Prop :=
  ∀ (a : Addr) (s : State), s.env.rst = false →
    (busReadState a s).blk = s.blk ∧ (busReadState a s).params = s.params
      ∧ busReadValue a s =
        let o := (a &&& 0x3FFC).toNat
        let w := (o - 0x0040) / 4
        let m := (o - 0x00C0) / 4
        let l := (o - 0x1000) / 0x400
        let q := (o - 0x1000) % 0x400 / 4
        if o = 0x0000 then cfg0 s.params
        else if o = 0x0004 then cfg1 s.params
        else if o = 0x0008 then
          (BitVec.ofBool s.blk.ie ++ 0#1 ++ s.blk.layer ++ 0#3 ++ BitVec.ofBool (decide (s.blk.mode = .nkro))).setWidth 32
        else if o = 0x000C then 0
        else if o = 0x0010 then
          (s.blk.rlen ++ 0#12 ++ BitVec.ofBool s.blk.errBusy ++ BitVec.ofBool s.blk.errCmd ++ BitVec.ofBool s.blk.done
            ++ BitVec.ofBool s.blk.busy).setWidth 32
        else if o = 0x0014 then s.blk.settle.setWidth 32
        else if 0x0040 ≤ o ∧ o ≤ 0x00BC then
          if s.params.numWords ≤ w then 0
          else if s.blk.busy then Config.anyRead s.env.draws
          else (s.blk.bitmap &&& s.params.keyMask).extractLsb' (32 * w) 32
        else if 0x00C0 ≤ o ∧ o ≤ 0x00E0 then
          if s.blk.busy then Config.anyRead s.env.draws
          else reportByte s.blk.rb (4 * m + 3) ++ reportByte s.blk.rb (4 * m + 2) ++ reportByte s.blk.rb (4 * m + 1)
            ++ reportByte s.blk.rb (4 * m)
        else if 0x1000 ≤ o ∧ o ≤ 0x23FC then
          s.params.keymapEntry l (4 * q + 3) ++ s.params.keymapEntry l (4 * q + 2) ++ s.params.keymapEntry l (4 * q + 1)
            ++ s.params.keymapEntry l (4 * q)
        else 0

/-! ### The sequencer (40_command R90 to R92) -/

/-- R90: the sequencer step, case by case. -/
def Obligations.SequencerStepByPhase : Prop :=
  ∀ (p : Params) (lv : Levels) (b : Block),
    (b.phase = .idle → b.seqStep p lv = b)
      ∧ (b.phase = .assert →
        b.seqStep p lv = { b with drive := b.drive &&& ~~~BitVec.twoPow 32 b.d, cnt := b.settleL, phase := .settle })
      ∧ (b.phase = .settle → b.cnt ≠ 0 → b.seqStep p lv = { b with cnt := b.cnt - 1 })
      ∧ (b.phase = .settle → b.cnt = 0 → b.d + 1 < p.numDrive →
        b.seqStep p lv = { b with
          acc := sampleUpdate p b.d lv b.acc, drive := b.drive ||| BitVec.twoPow 32 b.d, d := b.d + 1
          phase := .assert })
      ∧ (b.phase = .settle → b.cnt = 0 → p.numDrive ≤ b.d + 1 → b.opL = .scanEncode →
        b.seqStep p lv = { b with
          acc := sampleUpdate p b.d lv b.acc, drive := b.drive ||| BitVec.twoPow 32 b.d
          bitmap := sampleUpdate p b.d lv b.acc &&& p.keyMask, phase := .enc })
      ∧ (b.phase = .settle → b.cnt = 0 → p.numDrive ≤ b.d + 1 → b.opL ≠ .scanEncode →
        b.seqStep p lv = { b with
          acc := sampleUpdate p b.d lv b.acc, drive := b.drive ||| BitVec.twoPow 32 b.d
          bitmap := sampleUpdate p b.d lv b.acc &&& p.keyMask, phase := .idle, busy := false, done := true })
      ∧ (b.phase = .enc →
        b.seqStep p lv = { b with
          rb := if b.modeL = .sixKro then constructSixKro p b.layerL b else constructNkro p b.layerL b
          rlen := if b.modeL = .sixKro then 9 else 34, phase := .idle, busy := false, done := true })

/-- R90, R104, R163, 70 R170: a sequencer turn of the machine makes that step with the matrix's answer when the
sequencer can move, and nothing else; when it cannot (idle, in reset, clock stopped) it changes nothing. A step on the
sequencer's turn is that turn, the choice of it being noted in the schedule alone; a step on a supplied turn of
`releaseRst`, `stopClk` or `startClk` moves that pin alone, the block staying as it is, or in its reset state where
`rst` was 1. The supplied list of levels, and the free value where it is empty, are the model's form of the draw
(log 6), the supplied turns its form of the free order and of the pins (log 5, log 10). -/
def Obligations.SequencerTurn : Prop :=
  ∀ s : State,
    takeTurn .sequencer s = .next
      (if s.blk.phase ≠ .idle ∧ s.env.rst = false ∧ s.env.clkOn = true then
        { s with
          blk := s.blk.seqStep s.params s.env.sample
          env := if s.blk.phase = .settle ∧ s.blk.cnt = 0 then s.env.sampled else s.env }
      else s)
      ∧ (∀ lv rest, s.env.samples = lv :: rest →
        s.env.sample = lv ∧ s.env.sampled = { s.env with samples := rest })
      ∧ (s.env.samples = [] →
        s.env.sample = Config.freeSample s.env.draws ∧ s.env.sampled = { s.env with draws := s.env.draws + 1 })
      ∧ (s.params.legal = true → s.env.rst = false → s.nextTurn = some .sequencer →
        step s = takeTurn .sequencer s.useTurn
          ∧ s.useTurn = { s with env := { s.env with
              turns := s.useTurn.env.turns, picks := s.useTurn.env.picks, waited := s.useTurn.env.waited } })
      ∧ ∀ rest, s.params.legal = true →
        let blk := if s.env.rst then Block.reset s.params else s.blk
        (s.env.turns = .releaseRst :: rest →
            step s = .next { s with blk := blk, env := { s.env with rst := false, turns := rest } })
          ∧ (s.env.turns = .stopClk :: rest →
            step s = .next { s with blk := blk, env := { s.env with clkOn := false, turns := rest } })
          ∧ (s.env.turns = .startClk :: rest →
            step s = .next { s with blk := blk, env := { s.env with clkOn := true, turns := rest } })

/-- R91: each sequencer step of a running command takes one off the steps it has left. -/
def Obligations.SequencerCountsDown : Prop :=
  ∀ (p : Params) (lv : Levels) (b : Block), b.phaseAgrees p → b.phase ≠ .idle →
    (b.seqStep p lv).stepsLeft p + 1 = b.stepsLeft p

/-- R91, R92: an accepted command takes exactly N_DRIVE · (settle + 2), 1, or their sum of sequencer steps, whatever
the matrix answers: before that it has not finished, and then it has. -/
def Obligations.CommandStepCounts : Prop :=
  ∀ (p : Params) (answer : Nat → Levels) (op : Op) (b : Block), p.legal = true →
    let n := (match op with
      | .scan => p.numDrive * (b.settle.toNat + 2)
      | .encode => 1
      | .scanEncode => p.numDrive * (b.settle.toNat + 2) + 1)
    (∀ k, k < n → (Block.runSeq p answer k (b.accept op)).phase ≠ .idle
        ∧ (Block.runSeq p answer k (b.accept op)).busy = true)
      ∧ (Block.runSeq p answer n (b.accept op)).phase = .idle
      ∧ (Block.runSeq p answer n (b.accept op)).busy = false
      ∧ (Block.runSeq p answer n (b.accept op)).done = true

/-! ### SCAN (41_scan) -/

/-- R101: idx(r, c) is the row-major rank among the non-empty positions, below K, distinct for distinct positions,
dense, and independent of DIR. -/
def Obligations.BitIndexIsRowMajorRank : Prop :=
  ∀ p : Params, p.legal = true →
    (∀ r c, r < p.nRows → c < p.nCols → p.wired r c = true →
      p.idx r c = (((Finset.range p.nRows) ×ˢ (Finset.range p.nCols)).filter fun q =>
          p.wired q.1 q.2 = true ∧ q.1 * p.nCols + q.2 < r * p.nCols + c).card
        ∧ p.idx r c < p.numKeys
        ∧ ∀ r' c', r' < p.nRows → c' < p.nCols → p.wired r' c' = true → p.idx r c = p.idx r' c' → r = r' ∧ c = c')
      ∧ (∀ i, i < p.numKeys → ∃ r c, r < p.nRows ∧ c < p.nCols ∧ p.wired r c = true ∧ p.idx r c = i)
      ∧ ∀ (dir : ScanDir) (r c : Nat), Params.idx { p with dir := dir } r c = p.idx r c

/-- R102: where the lines meet, and every position of the matrix is pos(d, j) for exactly one (d, j); the numbers of
drive and sense lines (R5). -/
def Obligations.LinesMeetAtOnePosition : Prop :=
  ∀ p : Params,
    (p.dir = .rowsDrive → p.numDrive = p.nRows ∧ p.numSense = p.nCols ∧ ∀ d j, p.pos d j = (d, j))
      ∧ (p.dir = .colsDrive → p.numDrive = p.nCols ∧ p.numSense = p.nRows ∧ ∀ d j, p.pos d j = (j, d))
      ∧ ∀ r c, r < p.nRows → c < p.nCols →
        ∃ d j, d < p.numDrive ∧ j < p.numSense ∧ p.pos d j = (r, c)
          ∧ ∀ d' j', p.pos d' j' = (r, c) → d' = d ∧ j' = j

/-- R105: after the snapshot of a drive line, exactly the bits of its non-empty positions whose sense line read low are
set besides those set before; no bit is cleared. -/
def Obligations.SampleUpdateSetsLowLines : Prop :=
  ∀ (p : Params) (d : Nat) (lv : Levels) (acc : KeyBits) (i : Nat), p.legal = true → d < p.numDrive → i < 1024 →
    ((sampleUpdate p d lv acc).getLsbD i = true ↔
      acc.getLsbD i = true ∨ ∃ j, j < p.numSense ∧ p.wired (p.pos d j).1 (p.pos d j).2 = true
        ∧ lv.getLsbD j = false ∧ p.idx (p.pos d j).1 (p.pos d j).2 = i)

/-- R106: after a SCAN, BM[i] = 1 iff the sense line of the position of index i read low in this scan; bits at or above
K are 0; no bit of an earlier bitmap survives. -/
def Obligations.ScanResultIsSensedLevels : Prop :=
  ∀ (p : Params) (answer : Nat → Levels) (b : Block), p.legal = true →
    (∀ d j, d < p.numDrive → j < p.numSense → p.wired (p.pos d j).1 (p.pos d j).2 = true →
        ((b.runCommand p answer .scan).key p (p.idx (p.pos d j).1 (p.pos d j).2) = true
          ↔ (answer d).getLsbD j = false))
      ∧ ∀ i, p.numKeys ≤ i → (b.runCommand p answer .scan).bitmap.getLsbD i = false

/-- R100, R38, R93: what a SCAN run to its end leaves as it was, and its flags. -/
def Obligations.ScanFrame : Prop :=
  ∀ (p : Params) (answer : Nat → Levels) (b : Block), p.legal = true → b.drive = allHigh →
    let t := b.runCommand p answer .scan
    t.mode = b.mode ∧ t.layer = b.layer ∧ t.ie = b.ie ∧ t.settle = b.settle ∧ t.errCmd = b.errCmd
      ∧ t.errBusy = b.errBusy ∧ t.rb = b.rb ∧ t.rlen = b.rlen ∧ t.drive = allHigh
      ∧ t.busy = false ∧ t.done = true ∧ t.phase = .idle

/-- R110: the waveform of the drive pins during one SCAN, with every step taken. That the bits at or above N_DRIVE stay 1
is the model's (log 13). -/
def Obligations.ScanDriveWaveform : Prop :=
  ∀ (p : Params) (answer : Nat → Levels) (b : Block), p.legal = true → b.drive = allHigh →
    Block.driveTrace p answer (p.numDrive * (b.settle.toNat + 2)) (b.accept .scan) =
      allHigh :: (List.range p.numDrive).flatMap (lineWave b.settle.toNat)

/-! ### ENCODE (42_encode) -/

/-- R121, R126: the class of every keycode, and the bit of a Modifier keycode. -/
def Obligations.KeycodeClassification : Prop :=
  ∀ k : Byte,
    (keyClass k = .normal ↔ 0x04 ≤ k.toNat ∧ k.toNat ≤ 0xDD)
      ∧ (keyClass k = .modifier ↔ 0xE0 ≤ k.toNat ∧ k.toNat ≤ 0xE7)
      ∧ (keyClass k = .ignored ↔ k.toNat ≤ 0x03 ∨ k.toNat = 0xDE ∨ k.toNat = 0xDF ∨ 0xE8 ≤ k.toNat)
      ∧ ∀ n, n < 8 → (modMask k).getLsbD n = decide (k.toNat % 8 = n)

/-- R124, R125, R130, R131, R132: the 6KRO frame, every byte of the buffer (from byte 9 on, R131's zero-fill). -/
def Obligations.SixKroFrameLayout : Prop :=
  ∀ (p : Params) (l : BitVec 3) (b : Block),
    reportByte (constructSixKro p l b) 0 = 0x01
      ∧ (∀ n, n < 8 → ((reportByte (constructSixKro p l b) 1).getLsbD n = true ↔
        ∃ i, i < p.numKeys ∧ b.key p i = true ∧ keyClass (keycode p l i) = .modifier
          ∧ (keycode p l i).toNat % 8 = n))
      ∧ reportByte (constructSixKro p l b) 2 = 0x00
      ∧ (∀ n, n < 6 → reportByte (constructSixKro p l b) (3 + n) = (b.normalKeys p l).getD n 0x00)
      ∧ ∀ j, 9 ≤ j → reportByte (constructSixKro p l b) j = 0x00

/-- R127, R129, R131, R132: the NKRO frame, every byte of the buffer (from byte 34 on, R131's zero-fill). -/
def Obligations.NkroFrameLayout : Prop :=
  ∀ (p : Params) (l : BitVec 3) (b : Block),
    reportByte (constructNkro p l b) 0 = 0x01
      ∧ (∀ n, n < 8 → ((reportByte (constructNkro p l b) 1).getLsbD n = true ↔
        ∃ i, i < p.numKeys ∧ b.key p i = true ∧ keyClass (keycode p l i) = .modifier
          ∧ (keycode p l i).toNat % 8 = n))
      ∧ (∀ k : Nat, k < 256 → ((reportByte (constructNkro p l b) (k / 8 + 2)).getLsbD (k % 8) = true ↔
        0x04 ≤ k ∧ k ≤ 0xDD ∧ ∃ i, i < p.numKeys ∧ b.key p i = true ∧ (keycode p l i).toNat = k))
      ∧ ∀ j, 34 ≤ j → reportByte (constructNkro p l b) j = 0x00

/-- R126: both forms compute the modifier byte the same way. -/
def Obligations.ModifierByteSameInBothForms : Prop :=
  ∀ (p : Params) (l : BitVec 3) (b : Block),
    reportByte (constructSixKro p l b) 1 = reportByte (constructNkro p l b) 1

/-- R133: with every BITMAP bit 0, the empty frames. -/
def Obligations.EmptyBitmapFrames : Prop :=
  ∀ (p : Params) (l : BitVec 3) (b : Block), (∀ i, i < p.numKeys → b.bitmap.getLsbD i = false) →
    ∀ j, reportByte (constructSixKro p l b) j = (if j = 0 then 0x01 else 0x00)
      ∧ reportByte (constructNkro p l b) j = (if j = 0 then 0x01 else 0x00)

/-- R122, R131: an accepted ENCODE ends in one sequencer step with the frame of the latched form and layer in RB and its
length in RLEN; BITMAP and everything else the rule does not name stay. -/
def Obligations.EncodeRunsInOneStep : Prop :=
  ∀ (p : Params) (answer : Nat → Levels) (b : Block),
    b.runCommand p answer .encode = { b with
      opL := .encode, modeL := b.mode, layerL := b.layer, settleL := b.settle
      rb := if b.mode = .sixKro then constructSixKro p b.layer b else constructNkro p b.layer b
      rlen := if b.mode = .sixKro then 9 else 34
      phase := .idle, busy := false, done := true }

/-- R133, R94: the frames are a function of the bitmap below K and of the layer's keycodes alone. -/
def Obligations.EncoderIsPure : Prop :=
  ∀ (p q : Params) (l m : BitVec 3) (b c : Block), p.numKeys = q.numKeys →
    (∀ i, i < p.numKeys → keycode p l i = keycode q m i) →
    (∀ i, i < p.numKeys → b.bitmap.getLsbD i = c.bitmap.getLsbD i) →
    constructSixKro p l b = constructSixKro q m c ∧ constructNkro p l b = constructNkro q m c

/-! ### SCAN_ENCODE (43_scan_encode) -/

/-- R141: SCAN_ENCODE ends in the state an accepted SCAN and then an accepted ENCODE end in, all that can be observed
of it (R35: the latches are unobservable while idle); and only the pair passes through BUSY = 0 with DONE = 1. -/
def Obligations.ScanEncodeEqualsScanThenEncode : Prop :=
  ∀ (p : Params) (answer answer' : Nat → Levels) (b : Block), p.legal = true →
    (b.runCommand p answer .scanEncode).observable
        = ((b.runCommand p answer .scan).runCommand p answer' .encode).observable
      ∧ (b.runCommand p answer .scan).busy = false ∧ (b.runCommand p answer .scan).done = true
      ∧ ∀ k, k < (b.accept .scanEncode).stepsLeft p →
        (Block.runSeq p answer k (b.accept .scanEncode)).busy = true

/-! ### Interrupt (60_exceptions) -/

/-- R155: irq = CTRL.IE & STATUS.DONE; the error flags do not drive it; clearing DONE or IE lowers it. -/
def Obligations.InterruptIsLevel : Prop :=
  ∀ (p : Params) (b : Block) (v : Word),
    b.irq = (b.ie && b.done) ∧ b.raiseErrCmd.irq = b.irq ∧ b.raiseErrBusy.irq = b.irq
      ∧ (v.getLsbD 1 = true → (b.clearFlags v).irq = false)
      ∧ (v.getLsbD 8 = false → (b.writeCtrl p v).irq = false)
      ∧ (b.done = true → v.getLsbD 8 = true → (b.writeCtrl p v).irq = true)
      ∧ b.finish.irq = b.ie

/-! ### Reset and the clock (70_reset_and_hazards, 60 R163) -/

/-- R39: what reset leaves, for every legal elaboration: every entry R39 gives a value for (KEYMAP is the parameter). -/
def Obligations.ResetValues : Prop :=
  ∀ p : Params, p.legal = true →
    busReadValue 0x000 (State.resetWith p) =
        0#9 ++ BitVec.ofNat 3 p.nLayers ++ 0#3 ++ BitVec.ofBool (decide (p.dir = .colsDrive)) ++ 0#2
          ++ BitVec.ofNat 6 p.nCols ++ 0#2 ++ BitVec.ofNat 6 p.nRows
      ∧ busReadValue 0x004 (State.resetWith p) =
        0#10 ++ BitVec.ofNat 6 p.numWords ++ 0#5 ++ BitVec.ofNat 11 p.numKeys
      ∧ busReadValue 0x008 (State.resetWith p) = (if p.modeReset = .nkro then 1 else 0)
      ∧ busReadValue 0x014 (State.resetWith p) = BitVec.ofNat 32 p.settleReset
      ∧ busReadValue 0x010 (State.resetWith p) = 0
      ∧ (∀ a : Addr, 0x0040 ≤ (a &&& 0x3FFC).toNat → (a &&& 0x3FFC).toNat ≤ 0x00E0 →
        busReadValue a (State.resetWith p) = 0)
      ∧ (State.resetWith p).params.keymap = p.keymap
      ∧ (Block.reset p).bitmap = 0 ∧ (∀ j, reportByte (Block.reset p).rb j = 0)
      ∧ (Block.reset p).phase = .idle ∧ (Block.reset p).drive = allHigh ∧ (Block.reset p).irq = false

/-- R170, R171: asserting `rst` puts the block into its reset state at once, in every state, busy or not, with the clock
running or not; a running command is gone. -/
def Obligations.ResetAbandonsTheCommand : Prop :=
  ∀ (s : State) (rest : List Turn), s.params.legal = true → s.env.turns = .assertRst :: rest →
    step s = .next { s with blk := Block.reset s.params, env := { s.env with rst := true, turns := rest } }

/-- R170, R172: while `rst = 1` every step leaves the block in its reset state, the sequencer takes no step, and a host
line that is a bus transaction waits; a CMD write that meets the reset has no effect. -/
def Obligations.ResetHoldsTheBlock : Prop :=
  ∀ (s t : State), s.env.rst = true → step s = .next t →
    t.blk = Block.reset s.params
      ∧ ((∃ line, s.env.host.current = some line ∧ line.isBus = true) → t.env.host = s.env.host)
      ∧ ∀ i : Instr, exec i s = .next s

/-- R163: with the clock stopped and `rst` low, no step but the assertion of `rst` changes the block. That the bus port
is closed too is the model's reading of "the block holds its state" (log 9). -/
def Obligations.StoppedClockHoldsTheBlock : Prop :=
  ∀ (s t : State), s.env.clkOn = false → s.env.rst = false → step s = .next t →
    t.blk = s.blk ∨ (∃ rest, s.env.turns = .assertRst :: rest) ∧ t.blk = Block.reset s.params

/-! ### The machine -/

/-- R75, R85: when the host's next line writes a word to CMD and it is the host's turn, the step is exec of the decoded
word, the host having gone on to its next line and the turn being used up. -/
def Obligations.StepRunsTheCommandWord : Prop :=
  ∀ (a : Addr) (v : Word) (s : State), s.params.legal = true → s.env.rst = false → s.env.clkOn = true →
    s.nextTurn = some .host → s.env.host.current = some (.wr a v) → a &&& 0x3FFC = 0x000C →
    step s = exec (decode v) s.useTurn.advance

/-- R75: on the host's turn a step is the host's next line, the turn being used up and the host having gone on to its
next line (a WR line is the bus write, at every address); and what each line but WR does. RD puts its value into its
temporary and leaves the others; RD == only notes whether the value differed; a label does nothing; a branch is taken
exactly when the masked temporary is zero (BZ) or not (BNZ). The list of values read, the canonical form of the
temporaries and the noted difference are the model's (log 4, log 19). -/
def Obligations.HostLinesRun : Prop :=
  ∀ s : State,
    (∀ line : HostLine, s.params.legal = true → s.env.rst = false → (s.env.clkOn = true ∨ line.isBus = false) →
        s.nextTurn = some .host → s.env.host.current = some line →
        step s = runLine line s.useTurn.advance
          ∧ (∀ a v, line = .wr a v → step s = busWrite a v s.useTurn.advance)
          ∧ s.useTurn.advance.params = s.params ∧ s.useTurn.advance.blk = s.blk
          ∧ s.useTurn.advance.env.host = { s.env.host with line := s.env.host.line + 1 })
      ∧ (tempsWf s.env.host.temps = true →
        ∀ (a : Addr) (t : Nat), ∃ u, runLine (.rd a t) s = .next u ∧ u.blk = s.blk ∧ u.params = s.params
          ∧ u.env.host.reads = s.env.host.reads ++ [busReadValue a s] ∧ u.env.host.line = s.env.host.line
          ∧ u.env.host.prog = s.env.host.prog ∧ u.env.host.failed = s.env.host.failed
          ∧ ∀ x, tempGet u.env.host.temps x = if x = t then busReadValue a s else tempGet s.env.host.temps x)
      ∧ (∀ (a : Addr) (v : Word), ∃ u, runLine (.rdCheck a v) s = .next u ∧ u.blk = s.blk ∧ u.params = s.params
          ∧ u.env.host = { s.env.host with
              reads := s.env.host.reads ++ [busReadValue a s]
              failed := s.env.host.failed || decide (busReadValue a s ≠ v) })
      ∧ (∀ l : Nat, runLine (.label l) s = .next s)
      ∧ (∀ (t : Nat) (m : Word) (l n : Nat), s.env.host.labelLine l = some n →
        runLine (.bz t m l) s = .next (if tempGet s.env.host.temps t &&& m = 0 then
          s.withHost { s.env.host with line := n } else s)
        ∧ runLine (.bnz t m l) s = .next (if tempGet s.env.host.temps t &&& m = 0 then s else
          s.withHost { s.env.host with line := n }))

/-- R6 and 93 section 2 (treatment `refuse`): an illegal elaboration is refused, whatever the state. That the refusal is
`step`'s is the model's form of it (log 15, DEDUCED). -/
def Obligations.IllegalElaborationRefused : Prop :=
  ∀ s : State,
    (s.params.nRows = 0 ∨ 32 < s.params.nRows ∨ s.params.nCols = 0 ∨ 32 < s.params.nCols
      ∨ s.params.layout.length ≠ s.params.nRows ∨ (∃ row ∈ s.params.layout, row.length ≠ s.params.nCols)
      ∨ s.params.numKeys = 0 ∨ s.params.nLayers = 0 ∨ 5 < s.params.nLayers
      ∨ s.params.keymap.length ≠ s.params.nLayers ∨ (∃ layer ∈ s.params.keymap, layer.length ≠ s.params.numKeys)
      ∨ 65535 < s.params.settleReset) →
    step s = .refused .illegalElaboration

/-- 93 section 2 and R150: on a legal elaboration with a host program of plain lines, every step goes on; no step
faults; the parameters (CFG0, CFG1, KEYMAP) and the program stay. -/
def Obligations.StepsGoOn : Prop :=
  ∀ s : State, s.params.legal = true → s.env.host.ok = true →
    ∃ t, step s = .next t ∧ t.params = s.params ∧ t.env.host.prog = s.env.host.prog ∧ t.env.host.ok = true

/-- R35, R37, R26, R31, R33 hold after reset, whatever the legal elaboration. -/
def Obligations.ResetMeetsInvariant : Prop :=
  (∀ p : Params, p.legal = true → (State.resetWith p).Inv) ∧ State.reset.Inv

/-- R35 ("Invariant: STATUS.BUSY = 1 if and only if phase ≠ IDLE"), R37, R26, R31, R33, R170: every step keeps the
invariant. Its clauses on the host temporaries and on the bits at or above N_DRIVE and K are the model's own form
(log 4, log 12, log 13). -/
def Obligations.StepKeepsInvariant : Prop := ∀ s t : State, s.Inv → step s = .next t → t.Inv

/-- R93, R87: while a command runs, the host's turn changes nothing of it: the latches, the sequencer, BITMAP, RB, RLEN,
BUSY and the drive lines stay. -/
def Obligations.HostCannotDisturbCommand : Prop :=
  ∀ s t : State, s.blk.busy = true → takeTurn .host s = .next t →
    t.blk.phase = s.blk.phase ∧ t.blk.opL = s.blk.opL ∧ t.blk.modeL = s.blk.modeL ∧ t.blk.layerL = s.blk.layerL
      ∧ t.blk.settleL = s.blk.settleL ∧ t.blk.d = s.blk.d ∧ t.blk.cnt = s.blk.cnt ∧ t.blk.acc = s.blk.acc
      ∧ t.blk.drive = s.blk.drive ∧ t.blk.bitmap = s.blk.bitmap ∧ t.blk.rb = s.blk.rb ∧ t.blk.rlen = s.blk.rlen
      ∧ t.blk.busy = true

/-- R93: while the block is idle and out of reset, RB, RLEN and the drive lines do not change in any step but the
assertion of `rst`, and BITMAP changes only by a host write to a BITMAP word. -/
def Obligations.IdleBlockKeepsResults : Prop :=
  ∀ s t : State, s.blk.busy = false → s.blk.phase = .idle → s.env.rst = false → s.nextTurn ≠ some .assertRst →
    step s = .next t →
    t.blk.rb = s.blk.rb ∧ t.blk.rlen = s.blk.rlen ∧ t.blk.drive = s.blk.drive
      ∧ (t.blk.bitmap ≠ s.blk.bitmap → s.nextTurn = some .host ∧ ∃ a v, s.env.host.current = some (.wr a v)
        ∧ 0x0040 ≤ (a &&& 0x3FFC).toNat ∧ (a &&& 0x3FFC).toNat ≤ 0x00BC)

/-- R38, R29, R181: DONE falls only by reset or by the host's write of 1 to STATUS bit 1. -/
def Obligations.DoneIsSticky : Prop :=
  ∀ s t : State, s.env.rst = false → s.blk.done = true → step s = .next t → t.blk.done = false →
    s.nextTurn = some .assertRst
      ∨ s.nextTurn = some .host ∧ ∃ a v, s.env.host.current = some (.wr a v) ∧ a &&& 0x3FFC = 0x0010
        ∧ v.getLsbD 1 = true

/-- R38, R151, R152: which step raises an error flag: ERR_CMD by a CMD write of a reserved opcode while idle, ERR_BUSY
by a CMD write of a non-zero opcode or a BITMAP write while busy. -/
def Obligations.ErrorFlagsRaisedOnlyByHost : Prop :=
  ∀ s t : State, s.env.rst = false → step s = .next t →
    (s.blk.errCmd = false → t.blk.errCmd = true →
      s.nextTurn = some .host ∧ s.blk.busy = false
        ∧ ∃ a v, s.env.host.current = some (.wr a v) ∧ a &&& 0x3FFC = 0x000C ∧ 0x04 ≤ v.extractLsb' 0 8)
      ∧ (s.blk.errBusy = false → t.blk.errBusy = true →
        s.nextTurn = some .host ∧ s.blk.busy = true
          ∧ ∃ a v, s.env.host.current = some (.wr a v)
            ∧ (a &&& 0x3FFC = 0x000C ∧ v.extractLsb' 0 8 ≠ 0x00
              ∨ 0x0040 ≤ (a &&& 0x3FFC).toNat ∧ (a &&& 0x3FFC).toNat ≤ 0x00BC
                ∧ ((a &&& 0x3FFC).toNat - 0x0040) / 4 < s.params.numWords))

/-- R92, R60, R61: under every schedule of the two agents, whatever the host does and the matrix answers, a running
command is busy until the sequencer has had as many turns as it has steps left, and the last of them finishes it. The
list of turns is the model's form of the free interleaving (log 5). -/
def Obligations.CommandFinishesUnderAnySchedule : Prop :=
  ∀ (s : State) (ts rest : List Turn), s.Inv → s.env.host.ok = true → s.env.rst = false → s.env.clkOn = true →
    s.blk.busy = true → s.env.turns = ts ++ .sequencer :: rest → (∀ u ∈ ts, u.isAgent = true) →
    ts.count .sequencer + 1 = s.blk.stepsLeft s.params →
    (∀ k, k ≤ ts.length → ∃ t, Host.Core.run Sys2Proof.core k s = .next t ∧ t.blk.busy = true)
      ∧ ∃ t, Host.Core.run Sys2Proof.core (ts.length + 1) s = .next t
        ∧ t.blk.busy = false ∧ t.blk.done = true ∧ t.blk.phase = .idle ∧ t.env.turns = rest

/-- R60 ("The only constraint is weak fairness"), R183: every infinite run of the machine is weakly fair to the
sequencer. The list of turns is finite and the free choice after it gives the host a finite number of turns ahead of
each contended sequencer step (the model's form of the free, fair choice: log 5). -/
def Obligations.EveryRunIsWeaklyFair : Prop := ∀ r : Nat → State, IsRun r → WeaklyFair r

/-- R183, R92: on a weakly fair run without reset and with the clock running, a running command stays busy until the
sequencer has taken the steps it had left, and then it has finished, whatever the host does meanwhile. -/
def Obligations.FairRunsFinishCommands : Prop :=
  ∀ r : Nat → State, IsRun r → WeaklyFair r → (r 0).Inv → (r 0).blk.busy = true →
    (∀ k, (r k).env.rst = false ∧ (r k).env.clkOn = true) →
    ∃ n, (∀ k, k ≤ n → (r k).blk.busy = true) ∧ (r (n + 1)).blk.busy = false ∧ (r (n + 1)).blk.done = true
      ∧ (List.range (n + 1)).countP (fun k => (r k).sequencerMoves) = (r 0).blk.stepsLeft (r 0).params

/-- R183 ("a host loop that waits for BUSY = 0 after an accepted command ends after finitely many iterations"), R76
(WAITIDLE): on every run without reset and with the clock running, a host that enters the WAITIDLE lines leaves them,
the block then being idle. That the host's own turns come too is the model's schedule (log 5). -/
def Obligations.WaitIdleLoopEnds : Prop :=
  ∀ (r : Nat → State) (i w t : Nat), IsRun r → (∀ k, (r k).env.rst = false ∧ (r k).env.clkOn = true) → (r 0).Inv →
    (r 0).env.host.prog[i]? = some (.label w) → (r 0).env.host.prog[i + 1]? = some (.rd 0x010 t) →
    (r 0).env.host.prog[i + 2]? = some (.bnz t 0x1 w) → (r 0).env.host.labelLine w = some i →
    (r 0).env.host.line = i →
    ∃ n, (r n).env.host.line = i + 3 ∧ (r n).blk.busy = false ∧ ∀ k, k < n → i ≤ (r k).env.host.line
      ∧ (r k).env.host.line < i + 3
end

