-- ==== Sys2Proof/Laws/Decode.lean ====
section
/-! SUPPORT. Command words by their two fields OP and IGN: the masks of the opcode table look at OP alone. -/

namespace Sys2Proof

/-- A mask within the low byte sees only OP (30_encoding R70, R72). -/
theorem and_low (w : Word) (m : Byte) : w &&& m.setWidth 32 = (opBits w &&& m).setWidth 32 := by
  apply BitVec.eq_of_getLsbD_eq
  intro i hi
  by_cases h8 : i < 8
  · simp [opBits, h8, hi]
  · have : m.getLsbD i = false := BitVec.getLsbD_of_ge m i (by omega)
    simp [opBits, h8, hi, this]

/-- Widening a byte loses nothing. -/
theorem setWidth_eq_iff (a b : Byte) : a.setWidth 32 = b.setWidth 32 ↔ a = b := by
  constructor
  · intro h
    have := congrArg (BitVec.setWidth 8) h
    simpa using this
  · rintro rfl; rfl

/-- The row a word matches, by its OP alone (R72). -/
def decodeByOp (op : Byte) (ign : BitVec 24) : Instr :=
  if op &&& 0xFF = 0x00 then .nop ign
  else if op &&& 0xFF = 0x01 then .scan ign
  else if op &&& 0xFF = 0x02 then .encode ign
  else if op &&& 0xFF = 0x03 then .scanEncode ign
  else if op &&& 0xFC = 0x04 then .reserved0407 op ign
  else if op &&& 0xF8 = 0x08 then .reserved080F op ign
  else if op &&& 0xF0 = 0x10 then .reserved101F op ign
  else if op &&& 0xE0 = 0x20 then .reserved203F op ign
  else if op &&& 0xC0 = 0x40 then .reserved407F op ign
  else .reserved80FF op ign

/-- Decoding looks at OP alone and keeps both fields (R72, R74). -/
theorem decode_eq (w : Word) : decode w = decodeByOp (opBits w) (ignBits w) := by
  have key : ∀ m v : Byte, (w &&& m.setWidth 32 = v.setWidth 32) = (opBits w &&& m = v) := fun m v => by
    rw [and_low, setWidth_eq_iff]
  unfold decode decodeByOp
  simp only [← key]
  rfl

/-- The bits of a command word. -/
theorem commandWord_getLsbD (ign : BitVec 24) (op : Byte) (i : Nat) :
    (commandWord ign op).getLsbD i = if i < 8 then op.getLsbD i else ign.getLsbD (i - 8) :=
  BitVec.getLsbD_append

/-- The fields of a word put together from them. -/
@[simp] theorem opBits_commandWord (ign : BitVec 24) (op : Byte) : opBits (commandWord ign op) = op := by
  apply BitVec.eq_of_getLsbD_eq
  intro i hi
  simp only [opBits, BitVec.getLsbD_extractLsb', Nat.zero_add, commandWord_getLsbD, hi, if_true, decide_true,
    Bool.true_and]

@[simp] theorem ignBits_commandWord (ign : BitVec 24) (op : Byte) : ignBits (commandWord ign op) = ign := by
  apply BitVec.eq_of_getLsbD_eq
  intro i hi
  have h8 : ¬ 8 + i < 8 := by omega
  simp only [ignBits, BitVec.getLsbD_extractLsb', commandWord_getLsbD, hi, h8, if_false, decide_true, Bool.true_and,
    Nat.add_sub_cancel_left]

/-- A word is its two fields (R70). -/
@[simp] theorem commandWord_fields (w : Word) : commandWord (ignBits w) (opBits w) = w := by
  apply BitVec.eq_of_getLsbD_eq
  intro i hi
  by_cases h8 : i < 8
  · simp only [commandWord_getLsbD, opBits, BitVec.getLsbD_extractLsb', h8, if_true, decide_true, Bool.true_and,
      Nat.zero_add]
  · have h1 : i - 8 < 24 := by omega
    have h2 : 8 + (i - 8) = i := by omega
    simp only [commandWord_getLsbD, ignBits, BitVec.getLsbD_extractLsb', h8, h1, h2, if_false, decide_true,
      Bool.true_and]

end Sys2Proof
end

