-- ==== Sys2Proof/Laws/Layout.lean ====
section
/-! SUPPORT. What a legal elaboration gives: ranges, the row-major list of positions, bit indices, and the mask of the
bits below K. -/

namespace Sys2Proof

/-- Legality, unpacked (00_scope R4, R6). -/
theorem Params.legal_iff (p : Params) : p.legal = true ↔
    (1 ≤ p.nRows ∧ p.nRows ≤ 32) ∧ (1 ≤ p.nCols ∧ p.nCols ≤ 32)
      ∧ (p.layout.length = p.nRows ∧ ∀ row ∈ p.layout, row.length = p.nCols)
      ∧ 1 ≤ p.numKeys ∧ (1 ≤ p.nLayers ∧ p.nLayers ≤ 5)
      ∧ (p.keymap.length = p.nLayers ∧ ∀ layer ∈ p.keymap, layer.length = p.numKeys)
      ∧ p.settleReset ≤ 65535 ∧ p.maxSteps ≤ p.tCmdMax ∧ 0 < p.fClk := by
  simp only [Params.legal, Params.layoutShaped, Params.keymapShaped, Bool.and_eq_true, decide_eq_true_eq, List.all_eq_true]
  tauto

/-- Entry (r, c) of a list of rows of one length is entry r·n + c of the rows in a row. -/
theorem flatten_getD_rowMajor {α : Type} (n c : Nat) (d : α) (hc : c < n) :
    ∀ (rows : List (List α)) (r : Nat), (∀ row ∈ rows, row.length = n) →
      rows.flatten.getD (r * n + c) d = (rows.getD r []).getD c d
  | [], r, _ => by simp
  | row :: rest, 0, h => by
    have hr : row.length = n := h row (by simp)
    simp only [List.flatten_cons, Nat.zero_mul, Nat.zero_add, List.getD_cons_zero]
    rw [List.getD_append _ _ _ _ (by omega)]
  | row :: rest, r + 1, h => by
    have hr : row.length = n := h row (by simp)
    simp only [List.flatten_cons, List.getD_cons_succ]
    rw [List.getD_append_right _ _ _ _ (by rw [hr, Nat.succ_mul]; omega)]
    rw [show (r + 1) * n + c - row.length = r * n + c by rw [hr, Nat.succ_mul]; omega]
    exact flatten_getD_rowMajor n c d hc rest r fun row' hm => h row' (by simp [hm])

/-- A row of one length each gives r·n + … entries in all. -/
theorem flatten_length_of_rows {α : Type} (n : Nat) :
    ∀ rows : List (List α), (∀ row ∈ rows, row.length = n) → rows.flatten.length = rows.length * n
  | [], _ => by simp
  | row :: rest, h => by
    have ih := flatten_length_of_rows n rest fun row' hm => h row' (by simp [hm])
    have hr : row.length = n := h row (by simp)
    rw [List.flatten_cons, List.length_append, ih, hr, List.length_cons, Nat.succ_mul, Nat.add_comm]

/-- Position (r, c) is entry r·N_COLS + c of the row-major list (00_scope R5). -/
theorem Params.wired_eq_positions (p : Params) (h : p.legal = true) {r c : Nat} (hc : c < p.nCols) :
    p.wired r c = p.positions.getD (r * p.nCols + c) false := by
  have hl := (p.legal_iff.1 h).2.2.1.2
  rw [Params.positions, flatten_getD_rowMajor p.nCols c false hc p.layout r hl, Params.wired]

/-- The matrix has N_ROWS · N_COLS positions. -/
theorem Params.positions_length (p : Params) (h : p.legal = true) : p.positions.length = p.nRows * p.nCols := by
  have hl := (p.legal_iff.1 h).2.2.1
  rw [Params.positions, flatten_length_of_rows p.nCols p.layout hl.2, hl.1]

/-- K is at most 1024 (92 D7). -/
theorem Params.numKeys_le (p : Params) (h : p.legal = true) : p.numKeys ≤ 1024 := by
  obtain ⟨⟨_, hr⟩, ⟨_, hc⟩, _⟩ := p.legal_iff.1 h
  have h1 : p.numKeys ≤ p.positions.length := List.count_le_length
  have h2 : p.nRows * p.nCols ≤ 32 * 32 := Nat.mul_le_mul hr hc
  have h3 := p.positions_length h
  omega

/-- NW is at most 32 (10_state R24). -/
theorem Params.numWords_le (p : Params) (h : p.legal = true) : p.numWords ≤ 32 := by
  have := p.numKeys_le h
  unfold Params.numWords
  omega

/-- How many of the first m + 1 entries are set, by entry m. -/
theorem count_take_succ (l : List Bool) (m : Nat) :
    (l.take (m + 1)).count true = (l.take m).count true + (if l.getD m false = true then 1 else 0) := by
  induction l generalizing m with
  | nil => simp
  | cons a l ih =>
    cases m with
    | zero => cases a <;> simp
    | succ m => simp only [List.take_succ_cons, List.count_cons, List.getD_cons_succ, ih m]; omega

/-- The count of a prefix grows with the prefix. -/
theorem count_take_mono (l : List Bool) {m n : Nat} (h : m ≤ n) : (l.take m).count true ≤ (l.take n).count true :=
  (List.take_prefix_take_left h).sublist.count_le true

/-- A set entry is counted by every longer prefix. -/
theorem count_take_lt_of_set (l : List Bool) {m n : Nat} (hm : l.getD m false = true) (h : m < n) :
    (l.take m).count true < (l.take n).count true := by
  have h1 := count_take_succ l m
  have h2 := count_take_mono l (show m + 1 ≤ n from h)
  simp only [hm, if_true] at h1
  omega

/-- A non-empty position's index is below K (41_scan R101). -/
theorem Params.idx_lt (p : Params) (h : p.legal = true) {r c : Nat} (hc : c < p.nCols) (hw : p.wired r c = true) :
    p.idx r c < p.numKeys := by
  rw [p.wired_eq_positions h hc] at hw
  have hlt : r * p.nCols + c < p.positions.length := by
    by_contra hge
    rw [List.getD_eq_default _ _ (by omega)] at hw
    exact absurd hw (by simp)
  have := count_take_lt_of_set p.positions hw hlt
  rwa [List.take_length] at this

/-- Row-major numbers tell positions apart. -/
theorem rowMajor_inj {n r c r' c' : Nat} (hc : c < n) (hc' : c' < n) (h : r * n + c = r' * n + c') : r = r' ∧ c = c' := by
  have hr : r = r' := by
    have h1 : (r * n + c) / n = r := by
      rw [Nat.mul_comm, Nat.mul_add_div (by omega), Nat.div_eq_of_lt hc, Nat.add_zero]
    have h2 : (r' * n + c') / n = r' := by
      rw [Nat.mul_comm, Nat.mul_add_div (by omega), Nat.div_eq_of_lt hc', Nat.add_zero]
    rw [← h1, h, h2]
  subst hr
  exact ⟨rfl, by omega⟩

/-- Distinct non-empty positions have distinct indices (41_scan R101). -/
theorem Params.idx_inj (p : Params) (h : p.legal = true) {r c r' c' : Nat} (hc : c < p.nCols) (hc' : c' < p.nCols)
    (hw : p.wired r c = true) (hw' : p.wired r' c' = true) (he : p.idx r c = p.idx r' c') : r = r' ∧ c = c' := by
  rw [p.wired_eq_positions h hc] at hw
  rw [p.wired_eq_positions h hc'] at hw'
  unfold Params.idx at he
  rcases Nat.lt_trichotomy (r * p.nCols + c) (r' * p.nCols + c') with hlt | heq | hgt
  · have := count_take_lt_of_set p.positions hw hlt; omega
  · exact rowMajor_inj hc hc' heq
  · have := count_take_lt_of_set p.positions hw' hgt; omega

/-- Bit i of the mask is set exactly below K. -/
theorem Params.getLsbD_keyMask (p : Params) (i : Nat) : p.keyMask.getLsbD i = decide (i < 1024 ∧ i < p.numKeys) := by
  simp [Params.keyMask, BitVec.getLsbD_ofNat, Nat.testBit_two_pow_sub_one]

/-- Drive and sense lines by direction (00_scope R5). -/
theorem Params.pos_bounds (p : Params) {d j : Nat} (hd : d < p.numDrive) (hj : j < p.numSense) :
    (p.pos d j).1 < p.nRows ∧ (p.pos d j).2 < p.nCols := by
  revert hd hj
  unfold Params.numDrive Params.numSense Params.pos
  cases p.dir <;> simp only <;> intro hd hj <;> exact ⟨by assumption, by assumption⟩

/-- A legal elaboration has 1 to 32 drive lines. -/
theorem Params.numDrive_range (p : Params) (h : p.legal = true) : 1 ≤ p.numDrive ∧ p.numDrive ≤ 32 := by
  obtain ⟨hr, hc, _⟩ := p.legal_iff.1 h
  unfold Params.numDrive
  cases p.dir <;> simpa using ‹_›

/-- A legal elaboration has 1 to 32 sense lines. -/
theorem Params.numSense_range (p : Params) (h : p.legal = true) : 1 ≤ p.numSense ∧ p.numSense ≤ 32 := by
  obtain ⟨hr, hc, _⟩ := p.legal_iff.1 h
  unfold Params.numSense
  cases p.dir <;> simpa using ‹_›

end Sys2Proof
end

