-- ==== Sys2Proof/Laws/State.lean ====
section
/-! SUPPORT. One lemma per field per update of the state records, so that no proof unfolds a record update. -/

namespace Sys2Proof.Machine

/-! ### The machine's own updates -/

@[simp] theorem State.withBlk_params (s : State) (b : Block) : (s.withBlk b).params = s.params := rfl
@[simp] theorem State.withBlk_blk (s : State) (b : Block) : (s.withBlk b).blk = b := rfl
@[simp] theorem State.withBlk_env (s : State) (b : Block) : (s.withBlk b).env = s.env := rfl
@[simp] theorem State.withHost_params (s : State) (h : HostAgent) : (s.withHost h).params = s.params := rfl
@[simp] theorem State.withHost_blk (s : State) (h : HostAgent) : (s.withHost h).blk = s.blk := rfl
@[simp] theorem State.withHost_env (s : State) (h : HostAgent) : (s.withHost h).env = { s.env with host := h } := rfl
@[simp] theorem State.advance_params (s : State) : s.advance.params = s.params := rfl
@[simp] theorem State.advance_blk (s : State) : s.advance.blk = s.blk := rfl
@[simp] theorem State.advance_env (s : State) :
    s.advance.env = { s.env with host := { s.env.host with line := s.env.host.line + 1 } } := rfl
@[simp] theorem assertReset_params (s : State) : (assertReset s).params = s.params := rfl
@[simp] theorem assertReset_blk (s : State) : (assertReset s).blk = Block.reset s.params := rfl
@[simp] theorem assertReset_env (s : State) : (assertReset s).env = { s.env with rst := true } := rfl
@[simp] theorem releaseReset_params (s : State) : (releaseReset s).params = s.params := rfl
@[simp] theorem releaseReset_blk (s : State) : (releaseReset s).blk = s.blk := rfl
@[simp] theorem releaseReset_env (s : State) : (releaseReset s).env = { s.env with rst := false } := rfl
@[simp] theorem setClock_params (on : Bool) (s : State) : (setClock on s).params = s.params := rfl
@[simp] theorem setClock_blk (on : Bool) (s : State) : (setClock on s).blk = s.blk := rfl
@[simp] theorem setClock_env (on : Bool) (s : State) : (setClock on s).env = { s.env with clkOn := on } := rfl
@[simp] theorem sequencerStep_params (s : State) : (sequencerStep s).params = s.params := rfl
@[simp] theorem sequencerStep_blk (s : State) : (sequencerStep s).blk = s.blk.seqStep s.params s.env.sample := rfl
@[simp] theorem State.resetWith_params (p : Params) : (State.resetWith p).params = p := rfl
@[simp] theorem State.resetWith_blk (p : Params) : (State.resetWith p).blk = Block.reset p := rfl
@[simp] theorem State.resetWith_env (p : Params) : (State.resetWith p).env = Env.quiet := rfl

/-! ### The block's updates -/

@[simp] theorem Block.raiseErrCmd_mode (b : Block) : b.raiseErrCmd.mode = b.mode := rfl
@[simp] theorem Block.raiseErrCmd_layer (b : Block) : b.raiseErrCmd.layer = b.layer := rfl
@[simp] theorem Block.raiseErrCmd_ie (b : Block) : b.raiseErrCmd.ie = b.ie := rfl
@[simp] theorem Block.raiseErrCmd_settle (b : Block) : b.raiseErrCmd.settle = b.settle := rfl
@[simp] theorem Block.raiseErrCmd_busy (b : Block) : b.raiseErrCmd.busy = b.busy := rfl
@[simp] theorem Block.raiseErrCmd_done (b : Block) : b.raiseErrCmd.done = b.done := rfl
@[simp] theorem Block.raiseErrCmd_errCmd (b : Block) : b.raiseErrCmd.errCmd = true := rfl
@[simp] theorem Block.raiseErrCmd_errBusy (b : Block) : b.raiseErrCmd.errBusy = b.errBusy := rfl
@[simp] theorem Block.raiseErrCmd_rlen (b : Block) : b.raiseErrCmd.rlen = b.rlen := rfl
@[simp] theorem Block.raiseErrCmd_bitmap (b : Block) : b.raiseErrCmd.bitmap = b.bitmap := rfl
@[simp] theorem Block.raiseErrCmd_rb (b : Block) : b.raiseErrCmd.rb = b.rb := rfl
@[simp] theorem Block.raiseErrCmd_phase (b : Block) : b.raiseErrCmd.phase = b.phase := rfl
@[simp] theorem Block.raiseErrCmd_opL (b : Block) : b.raiseErrCmd.opL = b.opL := rfl
@[simp] theorem Block.raiseErrCmd_modeL (b : Block) : b.raiseErrCmd.modeL = b.modeL := rfl
@[simp] theorem Block.raiseErrCmd_layerL (b : Block) : b.raiseErrCmd.layerL = b.layerL := rfl
@[simp] theorem Block.raiseErrCmd_settleL (b : Block) : b.raiseErrCmd.settleL = b.settleL := rfl
@[simp] theorem Block.raiseErrCmd_d (b : Block) : b.raiseErrCmd.d = b.d := rfl
@[simp] theorem Block.raiseErrCmd_cnt (b : Block) : b.raiseErrCmd.cnt = b.cnt := rfl
@[simp] theorem Block.raiseErrCmd_acc (b : Block) : b.raiseErrCmd.acc = b.acc := rfl
@[simp] theorem Block.raiseErrCmd_drive (b : Block) : b.raiseErrCmd.drive = b.drive := rfl

@[simp] theorem Block.raiseErrBusy_mode (b : Block) : b.raiseErrBusy.mode = b.mode := rfl
@[simp] theorem Block.raiseErrBusy_layer (b : Block) : b.raiseErrBusy.layer = b.layer := rfl
@[simp] theorem Block.raiseErrBusy_ie (b : Block) : b.raiseErrBusy.ie = b.ie := rfl
@[simp] theorem Block.raiseErrBusy_settle (b : Block) : b.raiseErrBusy.settle = b.settle := rfl
@[simp] theorem Block.raiseErrBusy_busy (b : Block) : b.raiseErrBusy.busy = b.busy := rfl
@[simp] theorem Block.raiseErrBusy_done (b : Block) : b.raiseErrBusy.done = b.done := rfl
@[simp] theorem Block.raiseErrBusy_errCmd (b : Block) : b.raiseErrBusy.errCmd = b.errCmd := rfl
@[simp] theorem Block.raiseErrBusy_errBusy (b : Block) : b.raiseErrBusy.errBusy = true := rfl
@[simp] theorem Block.raiseErrBusy_rlen (b : Block) : b.raiseErrBusy.rlen = b.rlen := rfl
@[simp] theorem Block.raiseErrBusy_bitmap (b : Block) : b.raiseErrBusy.bitmap = b.bitmap := rfl
@[simp] theorem Block.raiseErrBusy_rb (b : Block) : b.raiseErrBusy.rb = b.rb := rfl
@[simp] theorem Block.raiseErrBusy_phase (b : Block) : b.raiseErrBusy.phase = b.phase := rfl
@[simp] theorem Block.raiseErrBusy_opL (b : Block) : b.raiseErrBusy.opL = b.opL := rfl
@[simp] theorem Block.raiseErrBusy_modeL (b : Block) : b.raiseErrBusy.modeL = b.modeL := rfl
@[simp] theorem Block.raiseErrBusy_layerL (b : Block) : b.raiseErrBusy.layerL = b.layerL := rfl
@[simp] theorem Block.raiseErrBusy_settleL (b : Block) : b.raiseErrBusy.settleL = b.settleL := rfl
@[simp] theorem Block.raiseErrBusy_d (b : Block) : b.raiseErrBusy.d = b.d := rfl
@[simp] theorem Block.raiseErrBusy_cnt (b : Block) : b.raiseErrBusy.cnt = b.cnt := rfl
@[simp] theorem Block.raiseErrBusy_acc (b : Block) : b.raiseErrBusy.acc = b.acc := rfl
@[simp] theorem Block.raiseErrBusy_drive (b : Block) : b.raiseErrBusy.drive = b.drive := rfl

@[simp] theorem Block.clearFlags_mode (b : Block) (v : Word) : (b.clearFlags v).mode = b.mode := rfl
@[simp] theorem Block.clearFlags_layer (b : Block) (v : Word) : (b.clearFlags v).layer = b.layer := rfl
@[simp] theorem Block.clearFlags_ie (b : Block) (v : Word) : (b.clearFlags v).ie = b.ie := rfl
@[simp] theorem Block.clearFlags_settle (b : Block) (v : Word) : (b.clearFlags v).settle = b.settle := rfl
@[simp] theorem Block.clearFlags_busy (b : Block) (v : Word) : (b.clearFlags v).busy = b.busy := rfl
@[simp] theorem Block.clearFlags_done (b : Block) (v : Word) : (b.clearFlags v).done = (b.done && !v.getLsbD 1) := rfl
@[simp] theorem Block.clearFlags_errCmd (b : Block) (v : Word) :
    (b.clearFlags v).errCmd = (b.errCmd && !v.getLsbD 2) := rfl
@[simp] theorem Block.clearFlags_errBusy (b : Block) (v : Word) :
    (b.clearFlags v).errBusy = (b.errBusy && !v.getLsbD 3) := rfl
@[simp] theorem Block.clearFlags_rlen (b : Block) (v : Word) : (b.clearFlags v).rlen = b.rlen := rfl
@[simp] theorem Block.clearFlags_bitmap (b : Block) (v : Word) : (b.clearFlags v).bitmap = b.bitmap := rfl
@[simp] theorem Block.clearFlags_rb (b : Block) (v : Word) : (b.clearFlags v).rb = b.rb := rfl
@[simp] theorem Block.clearFlags_phase (b : Block) (v : Word) : (b.clearFlags v).phase = b.phase := rfl
@[simp] theorem Block.clearFlags_opL (b : Block) (v : Word) : (b.clearFlags v).opL = b.opL := rfl
@[simp] theorem Block.clearFlags_modeL (b : Block) (v : Word) : (b.clearFlags v).modeL = b.modeL := rfl
@[simp] theorem Block.clearFlags_layerL (b : Block) (v : Word) : (b.clearFlags v).layerL = b.layerL := rfl
@[simp] theorem Block.clearFlags_settleL (b : Block) (v : Word) : (b.clearFlags v).settleL = b.settleL := rfl
@[simp] theorem Block.clearFlags_d (b : Block) (v : Word) : (b.clearFlags v).d = b.d := rfl
@[simp] theorem Block.clearFlags_cnt (b : Block) (v : Word) : (b.clearFlags v).cnt = b.cnt := rfl
@[simp] theorem Block.clearFlags_acc (b : Block) (v : Word) : (b.clearFlags v).acc = b.acc := rfl
@[simp] theorem Block.clearFlags_drive (b : Block) (v : Word) : (b.clearFlags v).drive = b.drive := rfl

@[simp] theorem Block.finish_mode (b : Block) : b.finish.mode = b.mode := rfl
@[simp] theorem Block.finish_layer (b : Block) : b.finish.layer = b.layer := rfl
@[simp] theorem Block.finish_ie (b : Block) : b.finish.ie = b.ie := rfl
@[simp] theorem Block.finish_settle (b : Block) : b.finish.settle = b.settle := rfl
@[simp] theorem Block.finish_busy (b : Block) : b.finish.busy = false := rfl
@[simp] theorem Block.finish_done (b : Block) : b.finish.done = true := rfl
@[simp] theorem Block.finish_errCmd (b : Block) : b.finish.errCmd = b.errCmd := rfl
@[simp] theorem Block.finish_errBusy (b : Block) : b.finish.errBusy = b.errBusy := rfl
@[simp] theorem Block.finish_rlen (b : Block) : b.finish.rlen = b.rlen := rfl
@[simp] theorem Block.finish_bitmap (b : Block) : b.finish.bitmap = b.bitmap := rfl
@[simp] theorem Block.finish_rb (b : Block) : b.finish.rb = b.rb := rfl
@[simp] theorem Block.finish_phase (b : Block) : b.finish.phase = .idle := rfl
@[simp] theorem Block.finish_opL (b : Block) : b.finish.opL = b.opL := rfl
@[simp] theorem Block.finish_modeL (b : Block) : b.finish.modeL = b.modeL := rfl
@[simp] theorem Block.finish_layerL (b : Block) : b.finish.layerL = b.layerL := rfl
@[simp] theorem Block.finish_settleL (b : Block) : b.finish.settleL = b.settleL := rfl
@[simp] theorem Block.finish_d (b : Block) : b.finish.d = b.d := rfl
@[simp] theorem Block.finish_cnt (b : Block) : b.finish.cnt = b.cnt := rfl
@[simp] theorem Block.finish_acc (b : Block) : b.finish.acc = b.acc := rfl
@[simp] theorem Block.finish_drive (b : Block) : b.finish.drive = b.drive := rfl

@[simp] theorem Block.latch_mode (b : Block) (op : Op) : (b.latch op).mode = b.mode := rfl
@[simp] theorem Block.latch_layer (b : Block) (op : Op) : (b.latch op).layer = b.layer := rfl
@[simp] theorem Block.latch_ie (b : Block) (op : Op) : (b.latch op).ie = b.ie := rfl
@[simp] theorem Block.latch_settle (b : Block) (op : Op) : (b.latch op).settle = b.settle := rfl
@[simp] theorem Block.latch_busy (b : Block) (op : Op) : (b.latch op).busy = true := rfl
@[simp] theorem Block.latch_done (b : Block) (op : Op) : (b.latch op).done = b.done := rfl
@[simp] theorem Block.latch_errCmd (b : Block) (op : Op) : (b.latch op).errCmd = b.errCmd := rfl
@[simp] theorem Block.latch_errBusy (b : Block) (op : Op) : (b.latch op).errBusy = b.errBusy := rfl
@[simp] theorem Block.latch_rlen (b : Block) (op : Op) : (b.latch op).rlen = b.rlen := rfl
@[simp] theorem Block.latch_bitmap (b : Block) (op : Op) : (b.latch op).bitmap = b.bitmap := rfl
@[simp] theorem Block.latch_rb (b : Block) (op : Op) : (b.latch op).rb = b.rb := rfl
@[simp] theorem Block.latch_phase (b : Block) (op : Op) : (b.latch op).phase = b.phase := rfl
@[simp] theorem Block.latch_opL (b : Block) (op : Op) : (b.latch op).opL = op := rfl
@[simp] theorem Block.latch_modeL (b : Block) (op : Op) : (b.latch op).modeL = b.mode := rfl
@[simp] theorem Block.latch_layerL (b : Block) (op : Op) : (b.latch op).layerL = b.layer := rfl
@[simp] theorem Block.latch_settleL (b : Block) (op : Op) : (b.latch op).settleL = b.settle := rfl
@[simp] theorem Block.latch_d (b : Block) (op : Op) : (b.latch op).d = b.d := rfl
@[simp] theorem Block.latch_cnt (b : Block) (op : Op) : (b.latch op).cnt = b.cnt := rfl
@[simp] theorem Block.latch_acc (b : Block) (op : Op) : (b.latch op).acc = b.acc := rfl
@[simp] theorem Block.latch_drive (b : Block) (op : Op) : (b.latch op).drive = b.drive := rfl

@[simp] theorem Block.assertLine_mode (b : Block) : b.assertLine.mode = b.mode := rfl
@[simp] theorem Block.assertLine_layer (b : Block) : b.assertLine.layer = b.layer := rfl
@[simp] theorem Block.assertLine_ie (b : Block) : b.assertLine.ie = b.ie := rfl
@[simp] theorem Block.assertLine_settle (b : Block) : b.assertLine.settle = b.settle := rfl
@[simp] theorem Block.assertLine_busy (b : Block) : b.assertLine.busy = b.busy := rfl
@[simp] theorem Block.assertLine_done (b : Block) : b.assertLine.done = b.done := rfl
@[simp] theorem Block.assertLine_errCmd (b : Block) : b.assertLine.errCmd = b.errCmd := rfl
@[simp] theorem Block.assertLine_errBusy (b : Block) : b.assertLine.errBusy = b.errBusy := rfl
@[simp] theorem Block.assertLine_rlen (b : Block) : b.assertLine.rlen = b.rlen := rfl
@[simp] theorem Block.assertLine_bitmap (b : Block) : b.assertLine.bitmap = b.bitmap := rfl
@[simp] theorem Block.assertLine_rb (b : Block) : b.assertLine.rb = b.rb := rfl
@[simp] theorem Block.assertLine_phase (b : Block) : b.assertLine.phase = .settle := rfl
@[simp] theorem Block.assertLine_opL (b : Block) : b.assertLine.opL = b.opL := rfl
@[simp] theorem Block.assertLine_modeL (b : Block) : b.assertLine.modeL = b.modeL := rfl
@[simp] theorem Block.assertLine_layerL (b : Block) : b.assertLine.layerL = b.layerL := rfl
@[simp] theorem Block.assertLine_settleL (b : Block) : b.assertLine.settleL = b.settleL := rfl
@[simp] theorem Block.assertLine_d (b : Block) : b.assertLine.d = b.d := rfl
@[simp] theorem Block.assertLine_cnt (b : Block) : b.assertLine.cnt = b.settleL := rfl
@[simp] theorem Block.assertLine_acc (b : Block) : b.assertLine.acc = b.acc := rfl
@[simp] theorem Block.assertLine_drive (b : Block) : b.assertLine.drive = driveLow b.drive b.d := rfl

@[simp] theorem Block.settleWait_mode (b : Block) : b.settleWait.mode = b.mode := rfl
@[simp] theorem Block.settleWait_layer (b : Block) : b.settleWait.layer = b.layer := rfl
@[simp] theorem Block.settleWait_ie (b : Block) : b.settleWait.ie = b.ie := rfl
@[simp] theorem Block.settleWait_settle (b : Block) : b.settleWait.settle = b.settle := rfl
@[simp] theorem Block.settleWait_busy (b : Block) : b.settleWait.busy = b.busy := rfl
@[simp] theorem Block.settleWait_done (b : Block) : b.settleWait.done = b.done := rfl
@[simp] theorem Block.settleWait_errCmd (b : Block) : b.settleWait.errCmd = b.errCmd := rfl
@[simp] theorem Block.settleWait_errBusy (b : Block) : b.settleWait.errBusy = b.errBusy := rfl
@[simp] theorem Block.settleWait_rlen (b : Block) : b.settleWait.rlen = b.rlen := rfl
@[simp] theorem Block.settleWait_bitmap (b : Block) : b.settleWait.bitmap = b.bitmap := rfl
@[simp] theorem Block.settleWait_rb (b : Block) : b.settleWait.rb = b.rb := rfl
@[simp] theorem Block.settleWait_phase (b : Block) : b.settleWait.phase = b.phase := rfl
@[simp] theorem Block.settleWait_opL (b : Block) : b.settleWait.opL = b.opL := rfl
@[simp] theorem Block.settleWait_modeL (b : Block) : b.settleWait.modeL = b.modeL := rfl
@[simp] theorem Block.settleWait_layerL (b : Block) : b.settleWait.layerL = b.layerL := rfl
@[simp] theorem Block.settleWait_settleL (b : Block) : b.settleWait.settleL = b.settleL := rfl
@[simp] theorem Block.settleWait_d (b : Block) : b.settleWait.d = b.d := rfl
@[simp] theorem Block.settleWait_cnt (b : Block) : b.settleWait.cnt = b.cnt - 1 := rfl
@[simp] theorem Block.settleWait_acc (b : Block) : b.settleWait.acc = b.acc := rfl
@[simp] theorem Block.settleWait_drive (b : Block) : b.settleWait.drive = b.drive := rfl

@[simp] theorem Block.takeSample_mode (p : Params) (lv : Levels) (b : Block) :
    (b.takeSample p lv).mode = b.mode := rfl
@[simp] theorem Block.takeSample_layer (p : Params) (lv : Levels) (b : Block) :
    (b.takeSample p lv).layer = b.layer := rfl
@[simp] theorem Block.takeSample_ie (p : Params) (lv : Levels) (b : Block) : (b.takeSample p lv).ie = b.ie := rfl
@[simp] theorem Block.takeSample_settle (p : Params) (lv : Levels) (b : Block) :
    (b.takeSample p lv).settle = b.settle := rfl
@[simp] theorem Block.takeSample_busy (p : Params) (lv : Levels) (b : Block) :
    (b.takeSample p lv).busy = b.busy := rfl
@[simp] theorem Block.takeSample_done (p : Params) (lv : Levels) (b : Block) :
    (b.takeSample p lv).done = b.done := rfl
@[simp] theorem Block.takeSample_errCmd (p : Params) (lv : Levels) (b : Block) :
    (b.takeSample p lv).errCmd = b.errCmd := rfl
@[simp] theorem Block.takeSample_errBusy (p : Params) (lv : Levels) (b : Block) :
    (b.takeSample p lv).errBusy = b.errBusy := rfl
@[simp] theorem Block.takeSample_rlen (p : Params) (lv : Levels) (b : Block) :
    (b.takeSample p lv).rlen = b.rlen := rfl
@[simp] theorem Block.takeSample_bitmap (p : Params) (lv : Levels) (b : Block) :
    (b.takeSample p lv).bitmap = b.bitmap := rfl
@[simp] theorem Block.takeSample_rb (p : Params) (lv : Levels) (b : Block) : (b.takeSample p lv).rb = b.rb := rfl
@[simp] theorem Block.takeSample_phase (p : Params) (lv : Levels) (b : Block) :
    (b.takeSample p lv).phase = b.phase := rfl
@[simp] theorem Block.takeSample_opL (p : Params) (lv : Levels) (b : Block) : (b.takeSample p lv).opL = b.opL := rfl
@[simp] theorem Block.takeSample_modeL (p : Params) (lv : Levels) (b : Block) :
    (b.takeSample p lv).modeL = b.modeL := rfl
@[simp] theorem Block.takeSample_layerL (p : Params) (lv : Levels) (b : Block) :
    (b.takeSample p lv).layerL = b.layerL := rfl
@[simp] theorem Block.takeSample_settleL (p : Params) (lv : Levels) (b : Block) :
    (b.takeSample p lv).settleL = b.settleL := rfl
@[simp] theorem Block.takeSample_d (p : Params) (lv : Levels) (b : Block) : (b.takeSample p lv).d = b.d := rfl
@[simp] theorem Block.takeSample_cnt (p : Params) (lv : Levels) (b : Block) : (b.takeSample p lv).cnt = b.cnt := rfl
@[simp] theorem Block.takeSample_acc (p : Params) (lv : Levels) (b : Block) :
    (b.takeSample p lv).acc = sampleUpdate p b.d lv b.acc := rfl
@[simp] theorem Block.takeSample_drive (p : Params) (lv : Levels) (b : Block) :
    (b.takeSample p lv).drive = driveHigh b.drive b.d := rfl

@[simp] theorem Block.publishScan_mode (p : Params) (b : Block) : (b.publishScan p).mode = b.mode := rfl
@[simp] theorem Block.publishScan_layer (p : Params) (b : Block) : (b.publishScan p).layer = b.layer := rfl
@[simp] theorem Block.publishScan_ie (p : Params) (b : Block) : (b.publishScan p).ie = b.ie := rfl
@[simp] theorem Block.publishScan_settle (p : Params) (b : Block) : (b.publishScan p).settle = b.settle := rfl
@[simp] theorem Block.publishScan_busy (p : Params) (b : Block) : (b.publishScan p).busy = b.busy := rfl
@[simp] theorem Block.publishScan_done (p : Params) (b : Block) : (b.publishScan p).done = b.done := rfl
@[simp] theorem Block.publishScan_errCmd (p : Params) (b : Block) : (b.publishScan p).errCmd = b.errCmd := rfl
@[simp] theorem Block.publishScan_errBusy (p : Params) (b : Block) : (b.publishScan p).errBusy = b.errBusy := rfl
@[simp] theorem Block.publishScan_rlen (p : Params) (b : Block) : (b.publishScan p).rlen = b.rlen := rfl
@[simp] theorem Block.publishScan_bitmap (p : Params) (b : Block) :
    (b.publishScan p).bitmap = b.acc &&& p.keyMask := rfl
@[simp] theorem Block.publishScan_rb (p : Params) (b : Block) : (b.publishScan p).rb = b.rb := rfl
@[simp] theorem Block.publishScan_phase (p : Params) (b : Block) : (b.publishScan p).phase = b.phase := rfl
@[simp] theorem Block.publishScan_opL (p : Params) (b : Block) : (b.publishScan p).opL = b.opL := rfl
@[simp] theorem Block.publishScan_modeL (p : Params) (b : Block) : (b.publishScan p).modeL = b.modeL := rfl
@[simp] theorem Block.publishScan_layerL (p : Params) (b : Block) : (b.publishScan p).layerL = b.layerL := rfl
@[simp] theorem Block.publishScan_settleL (p : Params) (b : Block) : (b.publishScan p).settleL = b.settleL := rfl
@[simp] theorem Block.publishScan_d (p : Params) (b : Block) : (b.publishScan p).d = b.d := rfl
@[simp] theorem Block.publishScan_cnt (p : Params) (b : Block) : (b.publishScan p).cnt = b.cnt := rfl
@[simp] theorem Block.publishScan_acc (p : Params) (b : Block) : (b.publishScan p).acc = b.acc := rfl
@[simp] theorem Block.publishScan_drive (p : Params) (b : Block) : (b.publishScan p).drive = b.drive := rfl

@[simp] theorem Block.putBitmapWord_mode (p : Params) (b : Block) (w : Nat) (v : Word) :
    (b.putBitmapWord p w v).mode = b.mode := rfl
@[simp] theorem Block.putBitmapWord_layer (p : Params) (b : Block) (w : Nat) (v : Word) :
    (b.putBitmapWord p w v).layer = b.layer := rfl
@[simp] theorem Block.putBitmapWord_ie (p : Params) (b : Block) (w : Nat) (v : Word) :
    (b.putBitmapWord p w v).ie = b.ie := rfl
@[simp] theorem Block.putBitmapWord_settle (p : Params) (b : Block) (w : Nat) (v : Word) :
    (b.putBitmapWord p w v).settle = b.settle := rfl
@[simp] theorem Block.putBitmapWord_busy (p : Params) (b : Block) (w : Nat) (v : Word) :
    (b.putBitmapWord p w v).busy = b.busy := rfl
@[simp] theorem Block.putBitmapWord_done (p : Params) (b : Block) (w : Nat) (v : Word) :
    (b.putBitmapWord p w v).done = b.done := rfl
@[simp] theorem Block.putBitmapWord_errCmd (p : Params) (b : Block) (w : Nat) (v : Word) :
    (b.putBitmapWord p w v).errCmd = b.errCmd := rfl
@[simp] theorem Block.putBitmapWord_errBusy (p : Params) (b : Block) (w : Nat) (v : Word) :
    (b.putBitmapWord p w v).errBusy = b.errBusy := rfl
@[simp] theorem Block.putBitmapWord_rlen (p : Params) (b : Block) (w : Nat) (v : Word) :
    (b.putBitmapWord p w v).rlen = b.rlen := rfl
@[simp] theorem Block.putBitmapWord_bitmap (p : Params) (b : Block) (w : Nat) (v : Word) :
    (b.putBitmapWord p w v).bitmap = (b.bitmap &&& ~~~wordMask w) ||| ((v.setWidth 1024 <<< (32 * w)) &&& p.keyMask) := rfl
@[simp] theorem Block.putBitmapWord_rb (p : Params) (b : Block) (w : Nat) (v : Word) :
    (b.putBitmapWord p w v).rb = b.rb := rfl
@[simp] theorem Block.putBitmapWord_phase (p : Params) (b : Block) (w : Nat) (v : Word) :
    (b.putBitmapWord p w v).phase = b.phase := rfl
@[simp] theorem Block.putBitmapWord_opL (p : Params) (b : Block) (w : Nat) (v : Word) :
    (b.putBitmapWord p w v).opL = b.opL := rfl
@[simp] theorem Block.putBitmapWord_modeL (p : Params) (b : Block) (w : Nat) (v : Word) :
    (b.putBitmapWord p w v).modeL = b.modeL := rfl
@[simp] theorem Block.putBitmapWord_layerL (p : Params) (b : Block) (w : Nat) (v : Word) :
    (b.putBitmapWord p w v).layerL = b.layerL := rfl
@[simp] theorem Block.putBitmapWord_settleL (p : Params) (b : Block) (w : Nat) (v : Word) :
    (b.putBitmapWord p w v).settleL = b.settleL := rfl
@[simp] theorem Block.putBitmapWord_d (p : Params) (b : Block) (w : Nat) (v : Word) :
    (b.putBitmapWord p w v).d = b.d := rfl
@[simp] theorem Block.putBitmapWord_cnt (p : Params) (b : Block) (w : Nat) (v : Word) :
    (b.putBitmapWord p w v).cnt = b.cnt := rfl
@[simp] theorem Block.putBitmapWord_acc (p : Params) (b : Block) (w : Nat) (v : Word) :
    (b.putBitmapWord p w v).acc = b.acc := rfl
@[simp] theorem Block.putBitmapWord_drive (p : Params) (b : Block) (w : Nat) (v : Word) :
    (b.putBitmapWord p w v).drive = b.drive := rfl

@[simp] theorem Block.writeCtrl_mode (p : Params) (b : Block) (v : Word) :
    (b.writeCtrl p v).mode = modeOfBit (v.getLsbD 0) := rfl
@[simp] theorem Block.writeCtrl_layer (p : Params) (b : Block) (v : Word) :
    (b.writeCtrl p v).layer = if (v.extractLsb' 4 3).toNat < p.nLayers then v.extractLsb' 4 3 else b.layer := rfl
@[simp] theorem Block.writeCtrl_ie (p : Params) (b : Block) (v : Word) : (b.writeCtrl p v).ie = v.getLsbD 8 := rfl
@[simp] theorem Block.writeCtrl_settle (p : Params) (b : Block) (v : Word) :
    (b.writeCtrl p v).settle = b.settle := rfl
@[simp] theorem Block.writeCtrl_busy (p : Params) (b : Block) (v : Word) : (b.writeCtrl p v).busy = b.busy := rfl
@[simp] theorem Block.writeCtrl_done (p : Params) (b : Block) (v : Word) : (b.writeCtrl p v).done = b.done := rfl
@[simp] theorem Block.writeCtrl_errCmd (p : Params) (b : Block) (v : Word) :
    (b.writeCtrl p v).errCmd = b.errCmd := rfl
@[simp] theorem Block.writeCtrl_errBusy (p : Params) (b : Block) (v : Word) :
    (b.writeCtrl p v).errBusy = b.errBusy := rfl
@[simp] theorem Block.writeCtrl_rlen (p : Params) (b : Block) (v : Word) : (b.writeCtrl p v).rlen = b.rlen := rfl
@[simp] theorem Block.writeCtrl_bitmap (p : Params) (b : Block) (v : Word) :
    (b.writeCtrl p v).bitmap = b.bitmap := rfl
@[simp] theorem Block.writeCtrl_rb (p : Params) (b : Block) (v : Word) : (b.writeCtrl p v).rb = b.rb := rfl
@[simp] theorem Block.writeCtrl_phase (p : Params) (b : Block) (v : Word) : (b.writeCtrl p v).phase = b.phase := rfl
@[simp] theorem Block.writeCtrl_opL (p : Params) (b : Block) (v : Word) : (b.writeCtrl p v).opL = b.opL := rfl
@[simp] theorem Block.writeCtrl_modeL (p : Params) (b : Block) (v : Word) : (b.writeCtrl p v).modeL = b.modeL := rfl
@[simp] theorem Block.writeCtrl_layerL (p : Params) (b : Block) (v : Word) :
    (b.writeCtrl p v).layerL = b.layerL := rfl
@[simp] theorem Block.writeCtrl_settleL (p : Params) (b : Block) (v : Word) :
    (b.writeCtrl p v).settleL = b.settleL := rfl
@[simp] theorem Block.writeCtrl_d (p : Params) (b : Block) (v : Word) : (b.writeCtrl p v).d = b.d := rfl
@[simp] theorem Block.writeCtrl_cnt (p : Params) (b : Block) (v : Word) : (b.writeCtrl p v).cnt = b.cnt := rfl
@[simp] theorem Block.writeCtrl_acc (p : Params) (b : Block) (v : Word) : (b.writeCtrl p v).acc = b.acc := rfl
@[simp] theorem Block.writeCtrl_drive (p : Params) (b : Block) (v : Word) : (b.writeCtrl p v).drive = b.drive := rfl

@[simp] theorem Block.writeSettle_mode (b : Block) (v : Word) : (b.writeSettle v).mode = b.mode := rfl
@[simp] theorem Block.writeSettle_layer (b : Block) (v : Word) : (b.writeSettle v).layer = b.layer := rfl
@[simp] theorem Block.writeSettle_ie (b : Block) (v : Word) : (b.writeSettle v).ie = b.ie := rfl
@[simp] theorem Block.writeSettle_settle (b : Block) (v : Word) : (b.writeSettle v).settle = v.setWidth 16 := rfl
@[simp] theorem Block.writeSettle_busy (b : Block) (v : Word) : (b.writeSettle v).busy = b.busy := rfl
@[simp] theorem Block.writeSettle_done (b : Block) (v : Word) : (b.writeSettle v).done = b.done := rfl
@[simp] theorem Block.writeSettle_errCmd (b : Block) (v : Word) : (b.writeSettle v).errCmd = b.errCmd := rfl
@[simp] theorem Block.writeSettle_errBusy (b : Block) (v : Word) : (b.writeSettle v).errBusy = b.errBusy := rfl
@[simp] theorem Block.writeSettle_rlen (b : Block) (v : Word) : (b.writeSettle v).rlen = b.rlen := rfl
@[simp] theorem Block.writeSettle_bitmap (b : Block) (v : Word) : (b.writeSettle v).bitmap = b.bitmap := rfl
@[simp] theorem Block.writeSettle_rb (b : Block) (v : Word) : (b.writeSettle v).rb = b.rb := rfl
@[simp] theorem Block.writeSettle_phase (b : Block) (v : Word) : (b.writeSettle v).phase = b.phase := rfl
@[simp] theorem Block.writeSettle_opL (b : Block) (v : Word) : (b.writeSettle v).opL = b.opL := rfl
@[simp] theorem Block.writeSettle_modeL (b : Block) (v : Word) : (b.writeSettle v).modeL = b.modeL := rfl
@[simp] theorem Block.writeSettle_layerL (b : Block) (v : Word) : (b.writeSettle v).layerL = b.layerL := rfl
@[simp] theorem Block.writeSettle_settleL (b : Block) (v : Word) : (b.writeSettle v).settleL = b.settleL := rfl
@[simp] theorem Block.writeSettle_d (b : Block) (v : Word) : (b.writeSettle v).d = b.d := rfl
@[simp] theorem Block.writeSettle_cnt (b : Block) (v : Word) : (b.writeSettle v).cnt = b.cnt := rfl
@[simp] theorem Block.writeSettle_acc (b : Block) (v : Word) : (b.writeSettle v).acc = b.acc := rfl
@[simp] theorem Block.writeSettle_drive (b : Block) (v : Word) : (b.writeSettle v).drive = b.drive := rfl

end Sys2Proof.Machine
end

