-- ==== Sys2Proof/Laws/Ops.lean ====
section
/-! SUPPORT. What each shared operation can do, said once: accepting a command, a command word, a bus transaction, a
host line, a sequencer step. -/

namespace Sys2Proof.Machine

/-! ### Acceptance (40_command R86) -/

/-- A scanning command starts at line 0 with an empty accumulator. -/
theorem Block.accept_scanning (b : Block) {op : Op} (h : op ≠ .encode) :
    b.accept op = { b.latch op with acc := 0, d := 0, phase := .assert } := by
  cases op <;> first | rfl | exact absurd rfl h

/-- ENCODE starts at its ENC step. -/
theorem Block.accept_encode (b : Block) : b.accept .encode = { b.latch .encode with phase := .enc } := rfl

/-- What acceptance leaves as it was, whatever the command. -/
theorem Block.accept_keeps (b : Block) (op : Op) :
    (b.accept op).mode = b.mode ∧ (b.accept op).layer = b.layer ∧ (b.accept op).ie = b.ie
      ∧ (b.accept op).settle = b.settle ∧ (b.accept op).done = b.done ∧ (b.accept op).errCmd = b.errCmd
      ∧ (b.accept op).errBusy = b.errBusy ∧ (b.accept op).rlen = b.rlen ∧ (b.accept op).bitmap = b.bitmap
      ∧ (b.accept op).rb = b.rb ∧ (b.accept op).cnt = b.cnt ∧ (b.accept op).drive = b.drive := by
  cases op <;> exact ⟨rfl, rfl, rfl, rfl, rfl, rfl, rfl, rfl, rfl, rfl, rfl, rfl⟩

/-- What acceptance writes, whatever the command. -/
theorem Block.accept_latches (b : Block) (op : Op) :
    (b.accept op).busy = true ∧ (b.accept op).opL = op ∧ (b.accept op).modeL = b.mode
      ∧ (b.accept op).layerL = b.layer ∧ (b.accept op).settleL = b.settle
      ∧ (b.accept op).phase = (if op = .encode then .enc else .assert) := by
  cases op <;> exact ⟨rfl, rfl, rfl, rfl, rfl, rfl⟩

/-! ### One move of the block -/

/-- Everything that can happen to the block in one step of an agent or a pin. -/
inductive BlockMove (p : Params) (b : Block) : Block → Prop where
  /-- nothing -/
  | stay : BlockMove p b b
  /-- a command is accepted, the block being idle (R86) -/
  | accept (op : Op) (idle : b.busy = false) : BlockMove p b (b.accept op)
  /-- a reserved opcode, the block being idle (R151) -/
  | errCmd (idle : b.busy = false) : BlockMove p b b.raiseErrCmd
  /-- a command or a BITMAP write, the block being busy (R152) -/
  | errBusy (running : b.busy = true) : BlockMove p b b.raiseErrBusy
  /-- CTRL write (R26) -/
  | ctrl (v : Word) : BlockMove p b (b.writeCtrl p v)
  /-- STATUS write (R29) -/
  | status (v : Word) : BlockMove p b (b.clearFlags v)
  /-- SETTLE write (R27) -/
  | settle (v : Word) : BlockMove p b (b.writeSettle v)
  /-- BITMAP write, the block being idle (R32) -/
  | bitmap (w : Nat) (v : Word) (idle : b.busy = false) (inside : w < p.numWords) : BlockMove p b (b.putBitmapWord p w v)
  /-- a sequencer step (R90) -/
  | sequencer (lv : Levels) (running : b.phase ≠ .idle) : BlockMove p b (b.seqStep p lv)
  /-- reset (70 R170) -/
  | reset : BlockMove p b (Block.reset p)

/-- A CMD write of a command: the whole of what it can do (R85, R86). -/
theorem startCommand_eq (op : Op) (s : State) :
    ∃ b, startCommand op s = .next (s.withBlk b) ∧ BlockMove s.params s.blk b := by
  unfold startCommand
  split
  · split
    · exact ⟨_, rfl, .errBusy ‹_›⟩
    · exact ⟨_, rfl, .accept op (by simpa using ‹¬s.blk.busy = true›)⟩
  · exact ⟨s.blk, rfl, .stay⟩

/-- A CMD write of a reserved opcode: the whole of what it can do (R89). -/
theorem reservedCommand_eq (s : State) :
    ∃ b, reservedCommand s = .next (s.withBlk b) ∧ BlockMove s.params s.blk b := by
  unfold reservedCommand
  split
  · split
    · exact ⟨_, rfl, .errBusy ‹_›⟩
    · exact ⟨_, rfl, .errCmd (by simpa using ‹¬s.blk.busy = true›)⟩
  · exact ⟨s.blk, rfl, .stay⟩

/-- Every command word goes on to a next state, and touches the block alone. -/
theorem exec_eq (i : Instr) (s : State) : ∃ b, exec i s = .next (s.withBlk b) ∧ BlockMove s.params s.blk b := by
  cases i with
  | nop ign => exact ⟨s.blk, rfl, .stay⟩
  | scan ign => exact startCommand_eq .scan s
  | encode ign => exact startCommand_eq .encode s
  | scanEncode ign => exact startCommand_eq .scanEncode s
  | reserved0407 op ign => exact reservedCommand_eq s
  | reserved080F op ign => exact reservedCommand_eq s
  | reserved101F op ign => exact reservedCommand_eq s
  | reserved203F op ign => exact reservedCommand_eq s
  | reserved407F op ign => exact reservedCommand_eq s
  | reserved80FF op ign => exact reservedCommand_eq s

/-- A register write is one move of the block (20_memory R56). -/
theorem Block.writeReg_move (p : Params) (b : Block) (o : Nat) (v : Word) : BlockMove p b (b.writeReg p o v) := by
  unfold Block.writeReg
  split_ifs with h1 h2 h3 h4
  · exact .ctrl v
  · exact .status v
  · exact .settle v
  · unfold Block.writeBitmap
    simp only [Bool.and_eq_true, decide_eq_true_eq] at h4
    split
    · exact .errBusy ‹_›
    · exact .bitmap _ v (by simpa using ‹¬b.busy = true›) h4.2
  · exact .stay

/-- A bus write goes on to a next state, and touches the block alone, by one move. -/
theorem busWrite_eq (a : Addr) (v : Word) (s : State) :
    ∃ b, busWrite a v s = .next (s.withBlk b) ∧ BlockMove s.params s.blk b := by
  unfold busWrite
  split_ifs
  · exact exec_eq _ s
  · exact ⟨_, rfl, Block.writeReg_move _ _ _ _⟩
  · exact ⟨s.blk, rfl, .stay⟩

/-- The word an access addresses, by its offset (20_memory R54). -/
theorem wordOffset_eq_iff (a k : Addr) : wordOffset a = k.toNat ↔ a &&& 0x3FFC = k :=
  ⟨fun h => BitVec.eq_of_toNat_eq h, fun h => by rw [wordOffset, h]⟩

/-! ### The host (30_encoding R75) -/

/-- A bus read touches neither the block nor the parameters (20_memory R55, R57). -/
@[simp] theorem busReadState_blk (a : Addr) (s : State) : (busReadState a s).blk = s.blk := by
  unfold busReadState; split <;> rfl

@[simp] theorem busReadState_params (a : Addr) (s : State) : (busReadState a s).params = s.params := by
  unfold busReadState; split <;> rfl

@[simp] theorem busReadState_host (a : Addr) (s : State) : (busReadState a s).env.host = s.env.host := by
  unfold busReadState; split <;> rfl

@[simp] theorem busReadState_rst (a : Addr) (s : State) : (busReadState a s).env.rst = s.env.rst := by
  unfold busReadState; split <;> rfl

@[simp] theorem hostRead_blk (a : Addr) (t : Nat) (s : State) : (hostRead a t s).blk = s.blk := by simp [hostRead]

@[simp] theorem hostRead_params (a : Addr) (t : Nat) (s : State) : (hostRead a t s).params = s.params := by
  simp [hostRead]

@[simp] theorem hostCheck_blk (a : Addr) (v : Word) (s : State) : (hostCheck a v s).blk = s.blk := by simp [hostCheck]

@[simp] theorem hostCheck_params (a : Addr) (v : Word) (s : State) : (hostCheck a v s).params = s.params := by
  simp [hostCheck]

/-- A host branch moves the host alone. -/
theorem hostGoto_next {l : Nat} {s t : State} (h : hostGoto l s = .next t) :
    ∃ n, t = s.withHost { s.env.host with line := n } := by
  unfold hostGoto at h
  split at h
  · cases h; exact ⟨_, rfl⟩
  · cases h

/-- What a host line can do to the block: one move; the parameters, the pins and the program stay. -/
theorem runLine_next {line : HostLine} {s t : State} (h : runLine line s = .next t) :
    t.params = s.params ∧ BlockMove s.params s.blk t.blk ∧ t.env.rst = s.env.rst ∧ t.env.host.prog = s.env.host.prog := by
  cases line with
  | wr a v =>
    obtain ⟨b, hb, hm⟩ := busWrite_eq a v s
    rw [runLine, hb] at h
    cases h
    exact ⟨rfl, hm, rfl, rfl⟩
  | rd a u => cases h; exact ⟨by simp, by simpa using .stay, by simp [hostRead], by simp [hostRead, HostAgent.note]⟩
  | rdCheck a v => cases h; exact ⟨by simp, by simpa using .stay, by simp [hostCheck], by simp [hostCheck, HostAgent.note]⟩
  | label l => cases h; exact ⟨rfl, .stay, rfl, rfl⟩
  | bz u m l =>
    unfold runLine at h
    simp only at h
    split_ifs at h
    · obtain ⟨n, rfl⟩ := hostGoto_next h; exact ⟨rfl, .stay, rfl, rfl⟩
    · cases h; exact ⟨rfl, .stay, rfl, rfl⟩
  | bnz u m l =>
    unfold runLine at h
    simp only at h
    split_ifs at h
    · cases h; exact ⟨rfl, .stay, rfl, rfl⟩
    · obtain ⟨n, rfl⟩ := hostGoto_next h; exact ⟨rfl, .stay, rfl, rfl⟩
  | wrNarrow n a v => cases h
  | rdNarrow n a u => cases h; exact ⟨by simp, by simpa using .stay, by simp [hostRead], by simp [hostRead, HostAgent.note]⟩

/-- Only a `WR` line touches the block. -/
theorem runLine_blk {line : HostLine} {s t : State} (h : runLine line s = .next t) :
    t.blk = s.blk ∨ ∃ a v, line = .wr a v ∧ busWrite a v s = .next t := by
  cases line with
  | wr a v => exact .inr ⟨a, v, rfl, h⟩
  | rd a u => cases h; left; simp
  | rdCheck a v => cases h; left; simp
  | label l => cases h; left; rfl
  | bz u m l =>
    simp only [runLine] at h
    split_ifs at h
    · obtain ⟨n, rfl⟩ := hostGoto_next h; left; rfl
    · cases h; left; rfl
  | bnz u m l =>
    simp only [runLine] at h
    split_ifs at h
    · cases h; left; rfl
    · obtain ⟨n, rfl⟩ := hostGoto_next h; left; rfl
  | wrNarrow n a v => cases h
  | rdNarrow n a u => cases h; left; simp

/-- A host step leaves the block as it is, or it is a `WR` line that meets an open port. -/
theorem hostStep_blk {s t : State} (h : hostStep s = .next t) :
    t.blk = s.blk ∨ ∃ a v, s.env.host.current = some (.wr a v) ∧ s.env.portOpen = true
      ∧ busWrite a v s.advance = .next t := by
  unfold hostStep at h
  split at h
  · rename_i line hline
    split_ifs at h with hopen
    · rcases runLine_blk h with h | ⟨a, v, rfl, h⟩
      · exact .inl (by simpa using h)
      · exact .inr ⟨a, v, hline, by simpa [HostLine.isBus] using hopen, h⟩
    · cases h; exact .inl rfl
  · cases h; exact .inl rfl

/-- Two environments with the same pins and the same schedule: turns to come and the free choice's counters. -/
def Env.sameSchedule (e f : Env) : Prop :=
  e.rst = f.rst ∧ e.clkOn = f.clkOn ∧ e.turns = f.turns ∧ e.picks = f.picks ∧ e.waited = f.waited

theorem busReadState_schedule (a : Addr) (s : State) : (busReadState a s).env.sameSchedule s.env := by
  unfold busReadState Env.sameSchedule; split <;> simp

theorem Env.sampled_schedule (e : Env) : e.sampled.sameSchedule e := by
  unfold Env.sampled Env.sameSchedule; split <;> simp

/-- A host line leaves the pins and the schedule. -/
theorem runLine_schedule {line : HostLine} {s t : State} (h : runLine line s = .next t) : t.env.sameSchedule s.env := by
  have same : s.env.sameSchedule s.env := ⟨rfl, rfl, rfl, rfl, rfl⟩
  cases line with
  | wr a v =>
    obtain ⟨b, hb, _⟩ := busWrite_eq a v s
    rw [runLine, hb] at h
    cases h
    exact same
  | rd a u => cases h; exact busReadState_schedule a s
  | rdCheck a v => cases h; exact busReadState_schedule a s
  | label l => cases h; exact same
  | bz u m l =>
    simp only [runLine] at h
    split_ifs at h
    · obtain ⟨n, rfl⟩ := hostGoto_next h; exact same
    · cases h; exact same
  | bnz u m l =>
    simp only [runLine] at h
    split_ifs at h
    · cases h; exact same
    · obtain ⟨n, rfl⟩ := hostGoto_next h; exact same
  | wrNarrow n a v => cases h
  | rdNarrow n a u => cases h; exact busReadState_schedule a s

/-- What a host step can do. -/
theorem hostStep_next {s t : State} (h : hostStep s = .next t) :
    t.params = s.params ∧ BlockMove s.params s.blk t.blk ∧ t.env.rst = s.env.rst ∧ t.env.host.prog = s.env.host.prog := by
  unfold hostStep at h
  split at h
  · split at h
    · exact runLine_next (s := s.advance) h
    · cases h; exact ⟨rfl, .stay, rfl, rfl⟩
  · cases h; exact ⟨rfl, .stay, rfl, rfl⟩

/-- A host step leaves the pins and the schedule. -/
theorem hostStep_schedule {s t : State} (h : hostStep s = .next t) : t.env.sameSchedule s.env := by
  unfold hostStep at h
  split at h
  · split at h
    · exact runLine_schedule (s := s.advance) h
    · cases h; exact ⟨rfl, rfl, rfl, rfl, rfl⟩
  · cases h; exact ⟨rfl, rfl, rfl, rfl, rfl⟩

/-! ### The sequencer (40_command R90), phase by phase -/

theorem Block.seqStep_idle (p : Params) (lv : Levels) {b : Block} (h : b.phase = .idle) : b.seqStep p lv = b := by
  simp [Block.seqStep, h]

theorem Block.seqStep_assert (p : Params) (lv : Levels) {b : Block} (h : b.phase = .assert) :
    b.seqStep p lv = b.assertLine := by simp [Block.seqStep, h]

theorem Block.seqStep_wait (p : Params) (lv : Levels) {b : Block} (h : b.phase = .settle) (hc : b.cnt ≠ 0) :
    b.seqStep p lv = b.settleWait := by
  unfold Block.seqStep
  rw [h]
  exact if_neg hc

theorem Block.seqStep_sample (p : Params) (lv : Levels) {b : Block} (h : b.phase = .settle) (hc : b.cnt = 0) :
    b.seqStep p lv = b.sampleStep p lv := by simp [Block.seqStep, h, hc]

theorem Block.seqStep_enc (p : Params) (lv : Levels) {b : Block} (h : b.phase = .enc) :
    b.seqStep p lv = (b.encodeReport p).finish := by simp [Block.seqStep, h]

/-- What a sequencer step does to the sticky flags (10_state R38): the error flags stay, DONE does not fall. -/
theorem Block.seqStep_flags (p : Params) (lv : Levels) (b : Block) :
    (b.seqStep p lv).errCmd = b.errCmd ∧ (b.seqStep p lv).errBusy = b.errBusy
      ∧ (b.done = true → (b.seqStep p lv).done = true) := by
  unfold Block.seqStep
  split
  · simp
  · simp [Block.assertLine]
  · split
    · unfold Block.sampleStep Block.afterSample
      split
      · simp [Block.takeSample]
      · split <;> simp [Block.takeSample, Block.publishScan, Block.finish]
    · simp [Block.settleWait]
  · unfold Block.encodeReport Block.finish
    split <;> simp

end Sys2Proof.Machine
end

