-- ==== Sys2Proof/Laws/PerInstr.lean ====
section
/-! SUPPORT. The per-instruction family RowMatch: the word of a well-formed instruction matches its own row of
spec/opcode_table.json (mask and match written out from the table). -/

namespace Sys2Proof.Laws.RowMatch

/-- The row's mask. -/
def rowMask : Instr → Byte
  | .nop _ | .scan _ | .encode _ | .scanEncode _ => 0xFF
  | .reserved0407 _ _ => 0xFC
  | .reserved080F _ _ => 0xF8
  | .reserved101F _ _ => 0xF0
  | .reserved203F _ _ => 0xE0
  | .reserved407F _ _ => 0xC0
  | .reserved80FF _ _ => 0x80

/-- The row's match. -/
def rowMatch : Instr → Byte
  | .nop _ => 0x00
  | .scan _ => 0x01
  | .encode _ => 0x02
  | .scanEncode _ => 0x03
  | .reserved0407 _ _ => 0x04
  | .reserved080F _ _ => 0x08
  | .reserved101F _ _ => 0x10
  | .reserved203F _ _ => 0x20
  | .reserved407F _ _ => 0x40
  | .reserved80FF _ _ => 0x80

/-- A well-formed instruction's word matches its row. -/
def Statement (i : Instr) : Prop :=
  i.wellFormed = true → Sys2Proof.encode i &&& (rowMask i).setWidth 32 = (rowMatch i).setWidth 32

/-- The word matches as soon as the opcode does: the masks lie in the low byte. -/
theorem of_op (i : Instr) (h : i.wellFormed = true → i.opField &&& rowMask i = rowMatch i) : Statement i := by
  intro hw
  rw [and_low, Sys2Proof.encode, opBits_commandWord, setWidth_eq_iff]
  exact h hw

theorem nop (ign : BitVec 24) : Statement (.nop ign) :=
  of_op _ fun _ => show (0x00 : Byte) &&& 0xFF = 0x00 by decide

theorem scan (ign : BitVec 24) : Statement (.scan ign) :=
  of_op _ fun _ => show (0x01 : Byte) &&& 0xFF = 0x01 by decide

theorem encode (ign : BitVec 24) : Statement (.encode ign) :=
  of_op _ fun _ => show (0x02 : Byte) &&& 0xFF = 0x02 by decide

theorem scanEncode (ign : BitVec 24) : Statement (.scanEncode ign) :=
  of_op _ fun _ => show (0x03 : Byte) &&& 0xFF = 0x03 by decide

theorem reserved0407 (op : Byte) (ign : BitVec 24) : Statement (.reserved0407 op ign) :=
  of_op _ (by revert op; simp only [Instr.wellFormed, Instr.opField, rowMask, rowMatch]; decide +kernel)

theorem reserved080F (op : Byte) (ign : BitVec 24) : Statement (.reserved080F op ign) :=
  of_op _ (by revert op; simp only [Instr.wellFormed, Instr.opField, rowMask, rowMatch]; decide +kernel)

theorem reserved101F (op : Byte) (ign : BitVec 24) : Statement (.reserved101F op ign) :=
  of_op _ (by revert op; simp only [Instr.wellFormed, Instr.opField, rowMask, rowMatch]; decide +kernel)

theorem reserved203F (op : Byte) (ign : BitVec 24) : Statement (.reserved203F op ign) :=
  of_op _ (by revert op; simp only [Instr.wellFormed, Instr.opField, rowMask, rowMatch]; decide +kernel)

theorem reserved407F (op : Byte) (ign : BitVec 24) : Statement (.reserved407F op ign) :=
  of_op _ (by revert op; simp only [Instr.wellFormed, Instr.opField, rowMask, rowMatch]; decide +kernel)

theorem reserved80FF (op : Byte) (ign : BitVec 24) : Statement (.reserved80FF op ign) :=
  of_op _ (by revert op; simp only [Instr.wellFormed, Instr.opField, rowMask, rowMatch]; decide +kernel)

end Sys2Proof.Laws.RowMatch
end

