-- ==== Sys2Proof/Laws/Report.lean ====
section
/-! SUPPORT. The bytes of the report buffer after a write, and the ranges the two walks write in. -/

namespace Sys2Proof.Machine

/-- A byte after a write (10_state R33); a write outside the buffer would change nothing. -/
theorem reportByte_putReport (rb : Report) (j k : Nat) (v : Byte) :
    reportByte (putReport rb j v) k = if k = j ∧ j < 36 then v else reportByte rb k := by
  by_cases hk : k < 36 <;> by_cases hj : j = k <;> by_cases h36 : j < 36 <;>
    simp [reportByte, putReport, Vector.getD, hk, hj, h36, eq_comm]

/-- A byte after an OR into the buffer. -/
theorem reportByte_orReport (rb : Report) (j k : Nat) (v : Byte) :
    reportByte (orReport rb j v) k = if k = j ∧ j < 36 then reportByte rb k ||| v else reportByte rb k := by
  rw [orReport, reportByte_putReport]
  split
  · rename_i h; rw [h.1]
  · rfl

/-- A zero-filled buffer. -/
@[simp] theorem reportByte_zeros (k : Nat) : reportByte (Vector.replicate 36 0#8) k = 0#8 := by
  by_cases hk : k < 36 <;> simp [reportByte, Vector.getD, hk]

/-- Outside the buffer there is no byte. -/
theorem reportByte_of_ge (rb : Report) {k : Nat} (hk : 36 ≤ k) : reportByte rb k = 0 := by
  simp [reportByte, Vector.getD, Nat.not_lt.2 hk]

/-- The fresh buffer holds the report ID and zeros (42_encode R131, R132). -/
theorem reportByte_freshReport (k : Nat) : reportByte freshReport k = if k = 0 then 0x01 else 0 := by
  simp [freshReport, reportByte_putReport]

/-- Two buffers with the same bytes are the same buffer. -/
theorem report_ext {a b : Report} (h : ∀ k, k < 36 → reportByte a k = reportByte b k) : a = b := by
  apply Vector.ext
  intro i hi
  have := h i hi
  simpa [reportByte, Vector.getD, hi] using this

/-- The presence byte of a Normal keycode is one of bytes 2 to 29 (42_encode R129). -/
theorem nkroByte_range (k : Byte) (h : keyClass k = .normal) : 2 ≤ (k >>> 3).toNat + 2 ∧ (k >>> 3).toNat + 2 ≤ 29 := by
  revert h
  revert k
  decide +kernel

/-- The class of a keycode by its number (42_encode R121). -/
theorem keyClass_eq (k : Byte) : keyClass k =
    if 4 ≤ k.toNat ∧ k.toNat ≤ 0xDD then .normal else if 0xE0 ≤ k.toNat ∧ k.toNat ≤ 0xE7 then .modifier else .ignored := by
  simp [keyClass, BitVec.le_def]

end Sys2Proof.Machine
end

