-- ==== Sys2Proof/Laws/Sequencer.lean ====
section
/-! SUPPORT. Runs of the sequencer: one drive line, then a whole scan, as one equation each. -/

namespace Sys2Proof.Machine

/-- A line made active and released again is high, whatever it was (10_state R37). -/
@[simp] theorem driveHigh_driveLow (lv : Levels) (d : Nat) : driveHigh (driveLow lv d) d = driveHigh lv d := by
  apply BitVec.eq_of_getLsbD_eq
  intro i hi
  simp only [driveHigh, driveLow, BitVec.getLsbD_or, BitVec.getLsbD_and, BitVec.getLsbD_not, BitVec.getLsbD_twoPow, hi]
  by_cases hd : d = i <;> simp [hd, hi]

/-- Releasing a line that is high changes nothing. -/
@[simp] theorem driveHigh_allHigh (d : Nat) : driveHigh allHigh d = allHigh := by
  unfold allHigh
  apply BitVec.eq_of_getLsbD_eq
  intro i hi
  simp only [driveHigh, BitVec.getLsbD_or, BitVec.getLsbD_allOnes, hi, decide_true, Bool.true_or]

/-- A run in two parts. -/
theorem Block.runSeq_add (p : Params) (answer : Nat → Levels) :
    ∀ (m n : Nat) (b : Block),
      Block.runSeq p answer (m + n) b = Block.runSeq p answer n (Block.runSeq p answer m b)
  | 0, n, b => by simp [Block.runSeq]
  | m + 1, n, b => by
    rw [show m + 1 + n = (m + n) + 1 by omega, Block.runSeq, Block.runSeq, Block.runSeq_add p answer m n]

/-- Every settle-wait step, then the sample step (41_scan R103). -/
theorem Block.runSeq_settle (p : Params) (answer : Nat → Levels) :
    ∀ (k : Nat) (b : Block), b.phase = .settle → b.cnt.toNat = k →
      Block.runSeq p answer (k + 1) b = ({ b with cnt := 0 } : Block).sampleStep p (answer b.d)
  | 0, b, h, hk => by
    have hc : b.cnt = 0 := BitVec.eq_of_toNat_eq (by simpa using hk)
    rw [Block.runSeq, Block.runSeq, Block.seqStep_sample p _ h hc]
    rw [show ({ b with cnt := 0 } : Block) = b by cases b; simp_all]
  | k + 1, b, h, hk => by
    have hc : b.cnt ≠ 0 := fun e => by rw [e] at hk; simp at hk
    rw [Block.runSeq, Block.seqStep_wait p _ h hc, Block.runSeq_settle p answer k b.settleWait (by simpa using h)]
    · rfl
    · rw [Block.settleWait_cnt, BitVec.toNat_sub]
      simp
      omega

/-- One drive line from its ASSERT step through its sample step takes settle_l + 2 steps (40_command R91). -/
theorem Block.runSeq_line (p : Params) (answer : Nat → Levels) (b : Block) (h : b.phase = .assert) :
    Block.runSeq p answer (b.settleL.toNat + 2) b
      = ({ b.assertLine with cnt := 0 } : Block).sampleStep p (answer b.d) := by
  rw [Block.runSeq, Block.seqStep_assert p _ h, Block.runSeq_settle p answer b.settleL.toNat b.assertLine rfl rfl]
  rfl

/-- The accumulator after drive lines d, …, d + m - 1. -/
def scanAcc (p : Params) (answer : Nat → Levels) (d m : Nat) (acc : KeyBits) : KeyBits :=
  (List.range' d m).foldl (fun a x => sampleUpdate p x (answer x) a) acc

/-- The drive lines after lines d, …, d + m - 1 have been made active and released. -/
def scanDrive (d m : Nat) (lv : Levels) : Levels := (List.range' d m).foldl driveHigh lv

/-- A scan leaves high lines high. -/
@[simp] theorem scanDrive_allHigh (d m : Nat) : scanDrive d m allHigh = allHigh := by
  unfold scanDrive
  induction m generalizing d with
  | zero => rfl
  | succ m ih => rw [List.range'_succ, List.foldl_cons, driveHigh_allHigh, ih]

/-- The block when the last drive line of a scan has been sampled (40_command R90): idle, or at the ENC step of
SCAN_ENCODE. -/
def Block.scanned (p : Params) (acc : KeyBits) (drive : Levels) (b : Block) : Block :=
  if b.opL = .scanEncode then
    { b with
      acc := acc, bitmap := acc &&& p.keyMask, drive := drive, d := p.numDrive - 1, cnt := 0, phase := .enc }
  else
    { b with
      acc := acc, bitmap := acc &&& p.keyMask, drive := drive, d := p.numDrive - 1, cnt := 0, phase := .idle
      busy := false, done := true }

/-- The rest of a scan from the ASSERT step of a line, in one equation. -/
theorem Block.runSeq_scan (p : Params) (answer : Nat → Levels) :
    ∀ (m : Nat) (b : Block), b.phase = .assert → b.d + (m + 1) = p.numDrive →
      Block.runSeq p answer ((m + 1) * (b.settleL.toNat + 2)) b
        = b.scanned p (scanAcc p answer b.d (m + 1) b.acc) (scanDrive b.d (m + 1) b.drive)
  | 0, b, h, hn => by
    rw [show (0 + 1) * (b.settleL.toNat + 2) = b.settleL.toNat + 2 by omega, Block.runSeq_line p answer b h]
    have hlast : p.numDrive - 1 = b.d := by omega
    have hstop : ¬ b.d + 1 < p.numDrive := by omega
    by_cases ho : b.opL = .scanEncode <;>
      simp [Block.sampleStep, Block.afterSample, Block.takeSample, Block.assertLine, Block.publishScan, Block.finish,
        Block.scanned, scanAcc, scanDrive, List.range', hstop, ho, hlast]
  | m + 1, b, h, hn => by
    rw [show (m + 1 + 1) * (b.settleL.toNat + 2) = (b.settleL.toNat + 2) + (m + 1) * (b.settleL.toNat + 2) by ring,
      Block.runSeq_add, Block.runSeq_line p answer b h]
    have hgo : b.d + 1 < p.numDrive := by omega
    have ih := Block.runSeq_scan p answer m
      { ({ b.assertLine with cnt := 0 } : Block).takeSample p (answer b.d) with d := b.d + 1, phase := .assert } rfl
      (by simp; omega)
    simp only [Block.sampleStep, Block.afterSample, Block.takeSample, Block.assertLine, hgo, if_true] at ih ⊢
    rw [ih]
    by_cases ho : b.opL = .scanEncode <;> simp [Block.scanned, scanAcc, scanDrive, List.range'_succ, ho]

/-- An accepted scan, run through its last sample step (40_command R91, 41_scan R100). -/
theorem Block.runSeq_accept_scan (p : Params) (answer : Nat → Levels) (hl : p.legal = true) (b : Block) {op : Op}
    (ho : op ≠ .encode) :
    Block.runSeq p answer (p.numDrive * (b.settle.toNat + 2)) (b.accept op)
      = (b.accept op).scanned p (scanAcc p answer 0 p.numDrive 0) (scanDrive 0 p.numDrive b.drive) := by
  have hN := p.numDrive_range hl
  obtain ⟨m, hm⟩ : ∃ m, p.numDrive = m + 1 := ⟨p.numDrive - 1, by omega⟩
  have h := Block.runSeq_scan p answer m (b.accept op)
  rw [b.accept_scanning ho] at h ⊢
  have h' := h rfl (by simp [hm])
  rw [hm]
  exact h'

/-- The steps an accepted command has left (40_command R91). -/
theorem Block.stepsLeft_accept (p : Params) (b : Block) (op : Op) :
    (b.accept op).stepsLeft p = match op with
      | .scan => p.numDrive * (b.settle.toNat + 2)
      | .encode => 1
      | .scanEncode => p.numDrive * (b.settle.toNat + 2) + 1 := by
  cases op <;> simp [Block.stepsLeft, Block.accept, Block.latch, Op.encSteps]

end Sys2Proof.Machine
end

