-- ==== Sys2Proof/Laws/Step.lean ====
section
/-! SUPPORT. What one step of the machine can do, said once. -/

namespace Sys2Proof.Machine

/-- A step of a legal elaboration is a turn taken from the held state. -/
theorem step_of_legal {s : State} (h : s.params.legal = true) : step s = runStep s := by simp [step, h]

/-- A step goes on only on a legal elaboration (00_scope R6). -/
theorem legal_of_step_next {s t : State} (h : step s = .next t) : s.params.legal = true := by
  unfold step at h
  split at h
  · assumption
  · cases h

@[simp] theorem State.holdReset_params (s : State) : s.holdReset.params = s.params := by
  unfold State.holdReset; split <;> rfl

@[simp] theorem State.holdReset_env (s : State) : s.holdReset.env = s.env := by
  unfold State.holdReset; split <;> rfl

/-- The held block: the reset state while `rst = 1`, else the block itself (70 R170). -/
theorem State.holdReset_blk (s : State) :
    s.holdReset.blk = if s.env.rst then Block.reset s.params else s.blk := by
  unfold State.holdReset; split <;> rfl

/-- A noted choice changes the scheduler's two counters alone. -/
@[simp] theorem Env.contended_rst (e : Env) : e.contended.rst = e.rst := by unfold Env.contended; split <;> rfl
@[simp] theorem Env.contended_clkOn (e : Env) : e.contended.clkOn = e.clkOn := by unfold Env.contended; split <;> rfl
@[simp] theorem Env.contended_samples (e : Env) : e.contended.samples = e.samples := by
  unfold Env.contended; split <;> rfl
@[simp] theorem Env.contended_turns (e : Env) : e.contended.turns = e.turns := by unfold Env.contended; split <;> rfl
@[simp] theorem Env.contended_draws (e : Env) : e.contended.draws = e.draws := by unfold Env.contended; split <;> rfl
@[simp] theorem Env.contended_host (e : Env) : e.contended.host = e.host := by unfold Env.contended; split <;> rfl

/-- A contended host turn leaves the host one turn fewer ahead of the sequencer's next step. -/
theorem Env.contended_host_turn {e : Env} (h : e.hostFirst = true) :
    e.contended.picks = e.picks
      ∧ Config.hostTurns e.contended.picks - e.contended.waited + 1 = Config.hostTurns e.picks - e.waited := by
  have hlt : e.waited < Config.hostTurns e.picks := by simpa [Env.hostFirst] using h
  simp only [Env.contended, h, if_true, true_and]
  omega

/-- A host with no turn left leaves the contended step to the sequencer, and a new number comes up. -/
theorem Env.contended_sequencer_turn {e : Env} (h : e.hostFirst = false) :
    e.contended.picks = e.picks + 1 ∧ e.contended.waited = 0 := by simp [Env.contended, h]

/-- Using a turn up changes the environment's schedule alone. -/
theorem State.useTurn_eq (s : State) :
    s.useTurn = { s with env := { s.env with turns := s.env.turns.tail } } ∨ s.useTurn = { s with env := s.env.contended } := by
  unfold State.useTurn
  split
  · rename_i h; left; simp [h]
  · rename_i h
    split
    · exact .inr rfl
    · left
      have ht : s.env.turns.tail = s.env.turns := by rw [h]; rfl
      rw [ht]

@[simp] theorem State.useTurn_params (s : State) : s.useTurn.params = s.params := by
  rcases s.useTurn_eq with h | h <;> rw [h]

@[simp] theorem State.useTurn_blk (s : State) : s.useTurn.blk = s.blk := by
  rcases s.useTurn_eq with h | h <;> rw [h]

@[simp] theorem State.useTurn_host (s : State) : s.useTurn.env.host = s.env.host := by
  rcases s.useTurn_eq with h | h <;> simp [h]

@[simp] theorem State.useTurn_rst (s : State) : s.useTurn.env.rst = s.env.rst := by
  rcases s.useTurn_eq with h | h <;> simp [h]

@[simp] theorem State.useTurn_clkOn (s : State) : s.useTurn.env.clkOn = s.env.clkOn := by
  rcases s.useTurn_eq with h | h <;> simp [h]

@[simp] theorem State.useTurn_samples (s : State) : s.useTurn.env.samples = s.env.samples := by
  rcases s.useTurn_eq with h | h <;> simp [h]

@[simp] theorem State.useTurn_draws (s : State) : s.useTurn.env.draws = s.env.draws := by
  rcases s.useTurn_eq with h | h <;> simp [h]

@[simp] theorem State.useTurn_sequencerEnabled (s : State) : s.useTurn.sequencerEnabled = s.sequencerEnabled := by
  simp [State.sequencerEnabled]

/-- A step out of reset is the turn of the agent or pin whose turn it is, the turn being used up. -/
theorem step_of_turn {s : State} {u : Turn} (h : s.params.legal = true) (hr : s.env.rst = false)
    (hu : s.nextTurn = some u) : step s = takeTurn u s.useTurn := by
  have hheld : s.holdReset = s := by simp [State.holdReset, hr]
  rw [step_of_legal h, runStep, hheld, hu]

/-- What a turn can do to the machine: the parameters and the program stay, the block makes one move. -/
theorem takeTurn_next {u : Turn} {s t : State} (h : takeTurn u s = .next t) :
    t.params = s.params ∧ BlockMove s.params s.blk t.blk ∧ t.env.host.prog = s.env.host.prog := by
  cases u with
  | host => exact ⟨(hostStep_next h).1, (hostStep_next h).2.1, (hostStep_next h).2.2.2⟩
  | sequencer =>
    cases h
    split
    · rename_i he
      refine ⟨rfl, .sequencer _ ?_, ?_⟩
      · simp [State.sequencerEnabled] at he; exact he.1.1
      · unfold sequencerStep Env.sampled; simp only; split <;> [split; skip] <;> rfl
    · exact ⟨rfl, .stay, rfl⟩
  | assertRst => cases h; exact ⟨rfl, .reset, rfl⟩
  | releaseRst => cases h; exact ⟨rfl, .stay, rfl⟩
  | stopClk => cases h; exact ⟨rfl, .stay, rfl⟩
  | startClk => cases h; exact ⟨rfl, .stay, rfl⟩

/-- What a step can do to the machine: the parameters and the host program stay, and the block, held in reset while
`rst = 1`, makes one move. Every invariant of the block is kept by a step if every move keeps it. -/
theorem step_next {s t : State} (h : step s = .next t) :
    t.params = s.params ∧ BlockMove s.params s.holdReset.blk t.blk ∧ t.env.host.prog = s.env.host.prog := by
  rw [step_of_legal (legal_of_step_next h), runStep] at h
  split at h
  · simpa using takeTurn_next h
  · cases h
    exact ⟨by simp, by simpa using .stay, by simp⟩

/-- Out of reset, what a step can do to the block, by whose turn it is: nothing; the assertion of `rst`; a sequencer
step; a host write through the open port. -/
theorem step_cases {s t : State} (hr : s.env.rst = false) (h : step s = .next t) :
    t.blk = s.blk
      ∨ (s.nextTurn = some .assertRst ∧ t.blk = Block.reset s.params)
      ∨ (s.nextTurn = some .sequencer ∧ s.blk.phase ≠ .idle ∧ ∃ lv, t.blk = s.blk.seqStep s.params lv)
      ∨ ∃ a v, s.nextTurn = some .host ∧ s.env.host.current = some (.wr a v) ∧ s.env.portOpen = true
        ∧ busWrite a v s.useTurn.advance = .next t := by
  have hheld : s.holdReset = s := by simp [State.holdReset, hr]
  rw [step_of_legal (legal_of_step_next h), runStep, hheld] at h
  split at h
  · rename_i u hu
    cases u with
    | host =>
      rcases hostStep_blk h with h | ⟨a, v, hcur, hopen, h⟩
      · exact .inl (by simpa using h)
      · exact .inr (.inr (.inr ⟨a, v, hu, by simpa using hcur, by simpa [Env.portOpen] using hopen, h⟩))
    | sequencer =>
      cases h
      split
      · rename_i he
        simp only [State.sequencerEnabled, State.useTurn_blk, Bool.and_eq_true, decide_eq_true_eq] at he
        exact .inr (.inr (.inl ⟨hu, he.1.1, _, by rw [sequencerStep_blk, State.useTurn_blk, State.useTurn_params]⟩))
      · exact .inl (by simp)
    | assertRst => cases h; exact .inr (.inl ⟨hu, by simp⟩)
    | releaseRst => cases h; exact .inl (by simp)
    | stopClk => cases h; exact .inl (by simp)
    | startClk => cases h; exact .inl (by simp)
  · cases h; exact .inl rfl

/-- An agent's turn leaves the pins and the schedule as using it up left them; no turn puts turns back. -/
theorem agent_schedule {u : Turn} {s t : State} (hu : u.isAgent = true) (h : takeTurn u s = .next t) :
    t.env.sameSchedule s.env := by
  cases u with
  | host => exact hostStep_schedule h
  | sequencer =>
    cases h
    split
    · unfold sequencerStep
      simp only
      split
      · exact Env.sampled_schedule s.env
      · exact ⟨rfl, rfl, rfl, rfl, rfl⟩
    · exact ⟨rfl, rfl, rfl, rfl, rfl⟩
  | assertRst => cases hu
  | releaseRst => cases hu
  | stopClk => cases hu
  | startClk => cases hu

/-- No turn puts turns back or touches the free choice's counters. -/
theorem takeTurn_schedule {u : Turn} {s t : State} (h : takeTurn u s = .next t) :
    t.env.turns = s.env.turns ∧ t.env.picks = s.env.picks ∧ t.env.waited = s.env.waited := by
  cases u with
  | host => exact (hostStep_schedule h).2.2
  | sequencer => exact (agent_schedule (u := .sequencer) rfl h).2.2
  | assertRst => cases h; exact ⟨rfl, rfl, rfl⟩
  | releaseRst => cases h; exact ⟨rfl, rfl, rfl⟩
  | stopClk => cases h; exact ⟨rfl, rfl, rfl⟩
  | startClk => cases h; exact ⟨rfl, rfl, rfl⟩

/-- Where no turn is given: whose turn comes next (20_memory R60, log 5). -/
theorem State.nextTurn_nil {s : State} (h : s.env.turns = []) :
    s.nextTurn = match s.hostEnabled, s.sequencerEnabled with
      | true, true => some (if s.env.hostFirst then .host else .sequencer)
      | true, false => some .host
      | false, true => some .sequencer
      | false, false => none := by
  cases hh : s.hostEnabled <;> cases hs : s.sequencerEnabled <;> simp [State.nextTurn, h, hh, hs]

/-- Where no turn is given: a contended choice is noted. -/
theorem State.useTurn_nil {s : State} (h : s.env.turns = []) :
    s.useTurn = if s.hostEnabled && s.sequencerEnabled then { s with env := s.env.contended } else s := by
  simp [State.useTurn, h]

/-- A step out of reset takes the next turn of the state as it is. -/
theorem step_out_of_reset {s t : State} (hr : s.env.rst = false) (h : step s = .next t) :
    (s.nextTurn = none ∧ t = s) ∨ ∃ u, s.nextTurn = some u ∧ takeTurn u s.useTurn = .next t := by
  have hheld : s.holdReset = s := by simp [State.holdReset, hr]
  rw [step_of_legal (legal_of_step_next h), runStep, hheld] at h
  split at h
  · exact .inr ⟨_, ‹_›, h⟩
  · cases h; exact .inl ⟨‹_›, rfl⟩

/-- A run's first step, on any machine of the host's interface. -/
theorem core_run_succ (M : Host.Core) {s t : M.State} (h : M.step s = .next t) (n : Nat) :
    M.run (n + 1) s = M.run n t := by rw [Host.Core.run, h]

/-- A run's first step, on this machine. -/
theorem run_succ {s t : State} (h : step s = .next t) (n : Nat) :
    Host.Core.run Sys2Proof.core (n + 1) s = Host.Core.run Sys2Proof.core n t :=
  core_run_succ Sys2Proof.core h n

/-- A supplied agent's or pin's turn is the next one, and a step uses it up (20_memory R60). -/
theorem State.nextTurn_cons {s : State} {u : Turn} {rest : List Turn} (h : s.env.turns = u :: rest) :
    s.nextTurn = some u ∧ s.useTurn = { s with env := { s.env with turns := rest } } := by
  simp [State.nextTurn, State.useTurn, h]

end Sys2Proof.Machine
end

