-- ==== Sys2Proof/Laws/Temps.lean ====
section
/-! SUPPORT. The host temporaries: reading after writing, and that a write keeps the canonical form. -/

namespace Sys2Proof.Machine

/-- A key of a write's result is the written key or was there before. -/
theorem mem_tempSet {m : List (Nat × Word)} {t : Nat} {v : Word} {e : Nat × Word} (h : e ∈ tempSet m t v) :
    e = (t, v) ∨ e ∈ m := by
  induction m with
  | nil => by_cases hv : v = 0#32 <;> simp_all [tempSet]
  | cons a m ih =>
    obtain ⟨k, w⟩ := a
    unfold tempSet at h
    split_ifs at h <;> simp only [List.mem_cons] at h ⊢ <;> tauto

/-- A write keeps keys rising and values nonzero. -/
theorem tempSet_wf {m : List (Nat × Word)} (t : Nat) (v : Word) (h : tempsWf m = true) : tempsWf (tempSet m t v) = true := by
  induction m with
  | nil =>
    unfold tempSet
    split_ifs with hv
    · rfl
    · simpa [tempsWf] using hv
  | cons a m ih =>
    obtain ⟨k, w⟩ := a
    have hcons := h
    simp only [tempsWf, Bool.and_eq_true, List.all_eq_true, decide_eq_true_eq] at h
    obtain ⟨⟨hw, hk⟩, hm⟩ := h
    unfold tempSet
    split_ifs with h1 h2 h3 h4
    · exact hcons
    · simp only [tempsWf, Bool.and_eq_true, List.all_eq_true, decide_eq_true_eq, List.mem_cons]
      refine ⟨⟨h2, ?_⟩, ⟨hw, hk⟩, hm⟩
      rintro e (rfl | he)
      · exact h1
      · exact lt_trans h1 (hk e he)
    · exact hm
    · simp only [tempsWf, Bool.and_eq_true, List.all_eq_true, decide_eq_true_eq]
      exact ⟨⟨h4, fun e he => h3 ▸ hk e he⟩, hm⟩
    · simp only [tempsWf, Bool.and_eq_true, List.all_eq_true, decide_eq_true_eq]
      refine ⟨⟨hw, fun e he => ?_⟩, ih hm⟩
      rcases mem_tempSet he with rfl | he
      · show k < t
        omega
      · exact hk e he

/-- A key below every listed key is not listed. -/
theorem tempGet_of_all_lt {m : List (Nat × Word)} {t : Nat} (h : ∀ e ∈ m, t < e.1) : tempGet m t = 0 := by
  induction m with
  | nil => rfl
  | cons a m ih =>
    have ha : t < a.1 := h a (by simp)
    have hne : a.1 ≠ t := by omega
    simp only [tempGet, hne, if_false]
    exact ih fun e he => h e (by simp [he])

/-- The written temporary holds the value, every other holds what it held. -/
theorem tempGet_tempSet {m : List (Nat × Word)} (t u : Nat) (v : Word) (h : tempsWf m = true) :
    tempGet (tempSet m t v) u = if u = t then v else tempGet m u := by
  induction m with
  | nil =>
    by_cases hv : v = 0#32 <;> by_cases hu : u = t
    · simp [tempSet, tempGet, hv]
    · simp [tempSet, tempGet, hv]
    · simp [tempSet, tempGet, hv, hu]
    · have hne : t ≠ u := fun e => hu e.symm
      simp [tempSet, tempGet, hv, hu, hne]
  | cons a m ih =>
    obtain ⟨k, w⟩ := a
    simp only [tempsWf, Bool.and_eq_true, List.all_eq_true, decide_eq_true_eq] at h
    obtain ⟨⟨hw, hk⟩, hm⟩ := h
    have habove : ∀ x, x ≤ k → tempGet m x = 0 := fun x hx => tempGet_of_all_lt fun e he => by
      have := hk e he; omega
    unfold tempSet
    rcases Nat.lt_trichotomy t k with hlt | rfl | hgt
    · simp only [hlt, if_true]
      by_cases hu : u = t
      · subst hu
        have hne : k ≠ u := by omega
        by_cases hv : v = 0#32
        · simp [hv, tempGet, hne, habove u (by omega)]
        · simp [hv, tempGet]
      · have hne : t ≠ u := fun e => hu e.symm
        by_cases hv : v = 0#32
        · simp [hv, hu]
        · simp [hv, hu, tempGet, hne]
    · simp only [lt_irrefl, if_false, if_true]
      by_cases hu : u = t
      · subst hu
        by_cases hv : v = 0#32
        · simp [hv, habove u le_rfl]
        · simp [hv, tempGet]
      · have hne : t ≠ u := fun e => hu e.symm
        by_cases hv : v = 0#32 <;> simp [hv, hu, tempGet, hne]
    · have h1 : ¬ t < k := by omega
      have h2 : t ≠ k := by omega
      simp only [h1, h2, if_false, tempGet, ih hm]
      by_cases hu : k = u
      · subst hu; simp [h2.symm]
      · simp [hu]

end Sys2Proof.Machine
end

