-- ==== Sys2Proof/Tests/Slice0.lean ====
section
/-! SUPPORT. The model's own tests: command words written out from the encoding (30_encoding R70, R72), vectors of
95_test_vectors (their numbers stand in the comments), and a witness for the hypotheses of every statement. -/

namespace Sys2Proof.Tests

open Sys2Proof.Machine

/-! ### Configurations and small states -/

/-- Config A of 95_test_vectors section 2. -/
def configA : Params := Params.reference

/-- Config A1: Config A with DIR = 1. -/
def configA1 : Params := { configA with dir := .colsDrive }

/-- Config C. -/
def configC : Params :=
  { configA with
    nRows := 1, nCols := 8, layout := [List.replicate 8 true]
    keymap := [[0x00, 0x03, 0x04, 0xDD, 0xDE, 0xDF, 0xE0, 0xE7], [0xE8, 0xFF, 0x04, 0x04, 0xE3, 0xE3, 0x01, 0x02]] }

/-- Config D. -/
def configD : Params :=
  { configA with
    nRows := 2, nCols := 20, layout := List.replicate 2 (List.replicate 20 true), nLayers := 1
    keymap := [(List.range 40).map fun i => BitVec.ofNat 8 (4 + i)] }

/-- The machine out of reset, idle. -/
def idle : State := State.reset

/-- A SCAN just accepted: at the ASSERT step of line 0, settle_l = 40. -/
def scanning : State := idle.withBlk (idle.blk.accept .scan)

/-- An ENCODE just accepted, with every key of Config A in the bitmap. -/
def encoding : State := idle.withBlk (({ idle.blk with bitmap := 0xFF } : Block).accept .encode)

/-- A scan of settle count 0 in its first ASSERT step. -/
def quickScan : State := idle.withBlk (({ idle.blk with settle := 0 } : Block).accept .scan)

/-- A state whose next step is the host's write of v at a. -/
def hostWrites (a : Addr) (v : Word) (s : State) : State :=
  { s with env := { s.env with turns := [.host], host := { HostAgent.empty with prog := [.wr a v] } } }

/-- The same state with these turns to come. -/
def withTurns (ts : List Turn) (s : State) : State := { s with env := { s.env with turns := ts } }

/-- `rst` held at 1. -/
def held : State := { idle with env := { idle.env with rst := true } }

/-- The clock stopped in the middle of a scan. -/
def frozen : State := { scanning with env := { scanning.env with clkOn := false } }

/-- The block of an outcome, looked at. -/
def look {α : Type} (f : State → α) (o : Host.Outcome State Fault Refusal) : Option α := (nextOf o).map f

/-! ### Decoding: words written out bit by bit (30_encoding R70, R72, R74; vectors D1 to D4) -/

/-- NOP: bits 7:0 = 00000000, bits 31:8 ignored (here 1). -/
theorem test_decode_nop : decode 0b00000000000000000000000100000000 = .nop 1 := by decide

/-- SCAN: bits 7:0 = 00000001, every ignored bit 1. -/
theorem test_decode_scan : decode 0b11111111111111111111111100000001 = .scan 0xFFFFFF := by decide

/-- ENCODE: bits 7:0 = 00000010. -/
theorem test_decode_encode : decode 0b00000000000000000000000000000010 = .encode 0 := by decide

/-- SCAN_ENCODE: bits 7:0 = 00000011. -/
theorem test_decode_scan_encode : decode 0b00000000000000000000000000000011 = .scanEncode 0 := by decide

/-- RESERVED_04_07: the first and the last opcode of the row. -/
theorem test_decode_reserved_04_07 :
    decode 0b00000100 = .reserved0407 0x04 0 ∧ decode 0b00000111 = .reserved0407 0x07 0 := by decide

theorem test_decode_reserved_08_0F :
    decode 0b00001000 = .reserved080F 0x08 0 ∧ decode 0b00001111 = .reserved080F 0x0F 0 := by decide

theorem test_decode_reserved_10_1F :
    decode 0b00010000 = .reserved101F 0x10 0 ∧ decode 0b00011111 = .reserved101F 0x1F 0 := by decide

theorem test_decode_reserved_20_3F :
    decode 0b00100000 = .reserved203F 0x20 0 ∧ decode 0b00111111 = .reserved203F 0x3F 0 := by decide

theorem test_decode_reserved_40_7F :
    decode 0b01000000 = .reserved407F 0x40 0 ∧ decode 0b01111111 = .reserved407F 0x7F 0 := by decide

theorem test_decode_reserved_80_FF :
    decode 0b10000000 = .reserved80FF 0x80 0 ∧ decode 0b11111111 = .reserved80FF 0xFF 0 := by decide

/-- The encoder puts IGN above OP. -/
theorem test_encode_fields :
    encode (.scan 0xABCDEF) = 0xABCDEF01 ∧ encode (.reserved203F 0x2A 0x000001) = 0x0000012A := by decide

/-- Ill-formed terms: an opcode just outside each reserved row's range is refused by the check. -/
theorem test_wellFormed_smoke :
    (Instr.reserved0407 0x08 0).wellFormed = false ∧ (Instr.reserved0407 0x03 0).wellFormed = false
      ∧ (Instr.reserved080F 0x07 0).wellFormed = false ∧ (Instr.reserved080F 0x10 0).wellFormed = false
      ∧ (Instr.reserved101F 0x0F 0).wellFormed = false ∧ (Instr.reserved101F 0x20 0).wellFormed = false
      ∧ (Instr.reserved203F 0x1F 0).wellFormed = false ∧ (Instr.reserved203F 0x40 0).wellFormed = false
      ∧ (Instr.reserved407F 0x3F 0).wellFormed = false ∧ (Instr.reserved407F 0x80 0).wellFormed = false
      ∧ (Instr.reserved80FF 0x7F 0).wellFormed = false := by decide

/-- A table word is one word of CMD32; a longer one is refused. -/
theorem test_decodeTableWord :
    decodeTableWord 32 0x104 = some (.reserved0407 0x04 1) ∧ decodeTableWord 8 0x103 = some (.scanEncode 0)
      ∧ decodeTableWord 40 0x01 = none := by decide

/-! ### One step, by command (sections 4 and 5 of 95_test_vectors) -/

/-- A word placed by withFetchWord is what the very next step runs. -/
theorem test_step_runs_placed_word :
    look (fun t => (t.blk.phase, t.blk.opL, t.blk.statusWord)) (step (State.reset.withFetchWord 32 0x01))
      = some (.assert, .scan, 0x00000001) := by decide

/-- N1: NOP on an idle block sets nothing. -/
theorem test_nop_idle : look (fun t => t.blk) (exec (.nop 0) idle) = some idle.blk := rfl

/-- N3, N4: a reserved opcode while idle. -/
theorem test_reserved_idle :
    look (fun t => t.blk.statusWord) (exec (decode 0x04) idle) = some 0x00000004
      ∧ look (fun t => t.blk.statusWord) (exec (decode 0xFF) idle) = some 0x00000004 := by decide

/-- N5: a reserved opcode while busy raises ERR_BUSY and not ERR_CMD. -/
theorem test_reserved_busy : look (fun t => t.blk.statusWord) (exec (decode 0x04) scanning) = some 0x00000009 := by
  decide

/-- N6: ENCODE while a scan runs. -/
theorem test_encode_busy :
    look (fun t => (t.blk.statusWord, t.blk.phase, t.blk.opL)) (exec (decode 0x02) scanning)
      = some (0x00000009, .assert, .scan) := by decide

/-- N7: SCAN leaves DONE set. -/
theorem test_scan_keeps_done :
    look (fun t => t.blk.statusWord) (exec (.scan 0) (idle.withBlk { idle.blk with done := true })) = some 0x00000003 := by
  decide

/-- C1, its line 1: sense line 1 meets the empty position (1, 1), so Sample = 000 sets indices 3 and 4 alone. C6, its
line 0: with columns driving, drive line 0 and sense line 1 meet at (1, 0), index 3. -/
theorem test_scan_sample : sampleUpdate configA 1 0b000 0 = 0x18 ∧ sampleUpdate configA1 0 0b101 0 = 0x08 := by
  decide +kernel

/-- E1: seven Normal keys and one Modifier in 6KRO form. -/
theorem test_encode_six :
    let b := (encoding.blk.seqStep configA 0)
    reportWord b.rb 0 = 0x04000801 ∧ reportWord b.rb 1 = 0x08070605 ∧ reportWord b.rb 2 = 0x00000009
      ∧ b.statusWord = 0x00090002 := by decide +kernel

/-- E19: every key of Config C in NKRO form. -/
theorem test_encode_nkro :
    let rb := constructNkro configC 0 { idle.blk with bitmap := 0xFF }
    reportWord rb 0 = 0x00108101 ∧ reportWord rb 7 = 0x00002000 := by decide +kernel

/-- SE1: after the last sample of a SCAN_ENCODE the bitmap stands, BUSY stays and ENC comes next (R90, R141). -/
theorem test_scan_encode_goes_on :
    let b := ({ (idle.blk.accept .scanEncode) with d := 2, cnt := 0, acc := 0x19, phase := .settle } : Block)
    ((b.seqStep configA 0b011).bitmap, (b.seqStep configA 0b011).phase, (b.seqStep configA 0b011).busy,
      (b.seqStep configA 0b011).done) = (0x99, .enc, true, false) := by decide +kernel

/-- R140: SCAN_ENCODE starts as a scan. -/
theorem test_scan_encode_accept :
    look (fun t => (t.blk.opL, t.blk.phase, t.blk.acc)) (exec (.scanEncode 0) idle) = some (.scanEncode, .assert, 0) := rfl

/-- M1, M3, M4: reads after reset. -/
theorem test_reset_reads :
    [0x000, 0x004, 0x008, 0x00C, 0x010, 0x014, 0x018, 0x044, 0x003].map (fun a => busReadValue a idle)
      = [0x00200303, 0x00010008, 0, 0, 0, 0x28, 0, 0, 0x00200303] := by decide

/-- K1, K2: KEYMAP words. -/
theorem test_keymap_reads :
    [0x1000, 0x1004, 0x1008, 0x1400, 0x1404, 0x1800, 0x23FC].map (fun a => busReadValue a idle)
      = [0xE3060504, 0x0A090807, 0, 0xE0201F1E, 0x00232221, 0, 0] := by decide

/-- W4: a CTRL write of all ones keeps LAYER. -/
theorem test_ctrl_write : look (fun t => t.blk.ctrlWord) (busWrite 0x008 0xFFFFFFFF idle) = some 0x00000101 := by
  decide

/-- W8: the word of Config D whose upper bits are hardwired 0. -/
theorem test_bitmap_write :
    look (fun t => (busReadValue 0x044 t, busReadValue 0x048 t)) (busWrite 0x044 0xFFFFFFFF (State.resetWith configD))
      = some (0x000000FF, 0) := by decide +kernel

/-- X1: `rst` in the middle of a scan lifts the drive lines at once. -/
theorem test_reset_lifts_lines :
    (sequencerStep scanning).blk.drive = 0xFFFFFFFE
      ∧ look (fun t => (t.blk.drive, t.blk.statusWord)) (step (withTurns [.assertRst] (sequencerStep scanning)))
        = some (0xFFFFFFFF, 0) := by decide

/-- R54: a narrow write is refused by its name. -/
theorem test_narrow_write : runLine (.wrNarrow .bits8 0x008 1) idle = .refused .narrowWrite := rfl

/-! ### Witnesses: the hypotheses of each statement, met together -/

theorem witness_DecodeOfEncode : (Instr.reserved80FF 0xFF 0x123456).wellFormed = true := by decide

theorem witness_EveryWordIsOneRow :
    (0xFFFFFF00 : Word).extractLsb' 0 8 = 0x00 ∧ (0x00000001 : Word).extractLsb' 0 8 = 0x01
      ∧ (0x00000102 : Word).extractLsb' 0 8 = 0x02 ∧ (0x80000003 : Word).extractLsb' 0 8 = 0x03
      ∧ 0x04 ≤ (0x00000004 : Word).extractLsb' 0 8 ∧ 0x04 ≤ (0x000000FF : Word).extractLsb' 0 8 := by decide

theorem witness_IgnoredBitsNeverMatter : (0xFFFFFF01 : Word).extractLsb' 0 8 = (0x00000001 : Word).extractLsb' 0 8 := by
  decide

/-- ReservedOpcodeRaisesOneError, ScanAccepted, EncodeAccepted, ScanEncodeAccepted: an idle block, its port open. -/
theorem witness_idle_port_open : idle.env.rst = false ∧ idle.env.clkOn = true ∧ idle.blk.busy = false := by decide

/-- ReservedOpcodeRaisesOneError, BusyBlockDropsCommands: a busy block, its port open. -/
theorem witness_busy_port_open :
    scanning.env.rst = false ∧ scanning.env.clkOn = true ∧ scanning.blk.busy = true := by decide

/-- CmdWriteChecksInOrder, CtrlWriteEffect, StatusWriteClears, SettleWriteAndRead: the first and the last address of
each register. -/
theorem witness_register_addresses :
    (0x000C : Addr) &&& 0x3FFC = 0x000C ∧ (0x000F : Addr) &&& 0x3FFC = 0x000C ∧ (0x0008 : Addr) &&& 0x3FFC = 0x0008
      ∧ (0x000B : Addr) &&& 0x3FFC = 0x0008 ∧ (0x0010 : Addr) &&& 0x3FFC = 0x0010 ∧ (0x0013 : Addr) &&& 0x3FFC = 0x0010
      ∧ (0x0014 : Addr) &&& 0x3FFC = 0x0014 ∧ (0x0017 : Addr) &&& 0x3FFC = 0x0014 ∧ idle.env.rst = false
      ∧ idle.env.clkOn = true := by decide

/-- BitmapWriteEffect: the first and the last BITMAP word of Config D, the block idle. -/
theorem witness_BitmapWriteEffect :
    (State.resetWith configD).params.legal = true ∧ 1 < (State.resetWith configD).params.numWords
      ∧ ((0x0040 : Addr) &&& 0x3FFC).toNat = 0x0040 + 4 * 0 ∧ ((0x0047 : Addr) &&& 0x3FFC).toNat = 0x0040 + 4 * 1
      ∧ (State.resetWith configD).env.rst = false ∧ (State.resetWith configD).env.clkOn = true := by decide

/-- BitmapWriteEffect: the same while a command runs. -/
theorem witness_BitmapWriteEffect_busy :
    scanning.params.legal = true ∧ 0 < scanning.params.numWords ∧ scanning.env.rst = false ∧ scanning.env.clkOn = true
      ∧ scanning.blk.busy = true := by decide

/-- OtherWritesIgnored: CFG0, an unmapped word, the first unused BITMAP word of Config A, REPORT, KEYMAP. -/
theorem witness_OtherWritesIgnored :
    (([0x0000, 0x0018, 0x0044, 0x00BC, 0x00C0, 0x1000, 0x3FFC] : List Addr).all fun a =>
      decide ((a &&& 0x3FFC) ≠ 0x0008) && decide ((a &&& 0x3FFC) ≠ 0x000C) && decide ((a &&& 0x3FFC) ≠ 0x0010)
        && decide ((a &&& 0x3FFC) ≠ 0x0014)
        && !(decide (0x0040 ≤ (a &&& 0x3FFC).toNat) && decide ((a &&& 0x3FFC).toNat ≤ 0x00BC)
          && decide (((a &&& 0x3FFC).toNat - 0x0040) / 4 < idle.params.numWords))) = true := by decide

theorem witness_WritesIdempotent :
    (0x0040 : Addr) &&& 0x3FFC ≠ 0x000C
      ∧ look (fun t => t.blk.errBusy) (busWrite 0x0040 0x55 scanning) = some true := by decide

/-- ConfigRegisterFields, CommandStepCounts, BitIndexIsRowMajorRank, ScanResultIsSensedLevels, ScanFrame,
ScanDriveWaveform, ScanEncodeEqualsScanThenEncode, ResetValues, ResetMeetsInvariant: legal elaborations, and a block
whose drive lines are high. -/
theorem witness_legal :
    configA.legal = true ∧ configA1.legal = true ∧ configC.legal = true ∧ configD.legal = true
      ∧ idle.blk.drive = allHigh := by decide

/-- ControlRegistersRead, ReadsChangeNothingAndAreExact: out of reset, idle and busy. -/
theorem witness_out_of_reset : idle.env.rst = false ∧ scanning.env.rst = false ∧ scanning.blk.busy = true := by decide

/-- ReadsChangeNothingAndAreExact: the first and the last word of each range of its table, and of the unmapped ranges. -/
theorem witness_read_ranges :
    [0x0018, 0x003C, 0x0040, 0x00BC, 0x00C0, 0x00E0, 0x00E4, 0x0FFC, 0x1000, 0x23FC, 0x2400, 0x3FFC].map
        (fun a : Addr => (a &&& 0x3FFC).toNat)
      = [0x18, 0x3C, 0x40, 0xBC, 0xC0, 0xE0, 0xE4, 0xFFC, 0x1000, 0x23FC, 0x2400, 0x3FFC] := by decide

/-- ConfigRegisterFields: addresses of CFG0 and CFG1, in the middle of a scan. -/
theorem witness_ConfigRegisterFields :
    scanning.params = configA ∧ configA.legal = true ∧ scanning.env.rst = false
      ∧ (0x0003 : Addr) &&& 0x3FFC = 0x0000 ∧ (0x0007 : Addr) &&& 0x3FFC = 0x0004 := by decide

/-- DataRegistersReadWhileIdle: the first and the last word of each window. -/
theorem witness_DataRegistersReadWhileIdle :
    idle.env.rst = false ∧ idle.blk.busy = false ∧ idle.params.legal = true
      ∧ ((0x0040 : Addr) &&& 0x3FFC).toNat = 0x0040 + 4 * 0 ∧ ((0x00BC : Addr) &&& 0x3FFC).toNat = 0x0040 + 4 * 31
      ∧ ((0x00C0 : Addr) &&& 0x3FFC).toNat = 0x00C0 + 4 * 0 ∧ ((0x00E3 : Addr) &&& 0x3FFC).toNat = 0x00C0 + 4 * 8 := by
  decide

/-- KeymapReadsItsParameter: the first and the last word of the ROM. -/
theorem witness_KeymapReadsItsParameter :
    ((0x1000 : Addr) &&& 0x3FFC).toNat = 0x1000 + 0x400 * 0 + 4 * 0
      ∧ ((0x23FC : Addr) &&& 0x3FFC).toNat = 0x1000 + 0x400 * 4 + 4 * 255 ∧ idle.env.rst = false
      ∧ look (fun t => t.blk) (busWrite 0x1000 0 idle) = some idle.blk :=
  ⟨by decide, by decide, by decide, rfl⟩

/-- SequencerStepByPhase: a block in each case. -/
theorem witness_SequencerStepByPhase :
    idle.blk.phase = .idle ∧ scanning.blk.phase = .assert
      ∧ (scanning.blk.assertLine.phase = .settle ∧ scanning.blk.assertLine.cnt ≠ 0)
      ∧ (quickScan.blk.assertLine.phase = .settle ∧ quickScan.blk.assertLine.cnt = 0
        ∧ quickScan.blk.assertLine.d + 1 < configA.numDrive ∧ quickScan.blk.assertLine.opL ≠ .scanEncode)
      ∧ configA.numDrive ≤ ({ quickScan.blk.assertLine with d := 2 } : Block).d + 1
      ∧ ({ quickScan.blk.assertLine with d := 2, opL := .scanEncode } : Block).opL = .scanEncode
      ∧ encoding.blk.phase = .enc := by decide

/-- SequencerTurn: the sequencer can move, with and without supplied levels, and it is its turn, or a pin's, out of
reset and in it. -/
theorem witness_SequencerTurn :
    scanning.blk.phase ≠ .idle ∧ scanning.env.rst = false ∧ scanning.env.clkOn = true ∧ scanning.env.samples = []
      ∧ ({ scanning.env with samples := [0b110] } : Env).samples = 0b110 :: []
      ∧ scanning.params.legal = true ∧ (withTurns [.sequencer] scanning).nextTurn = some .sequencer
      ∧ scanning.nextTurn = some .sequencer ∧ held.params.legal = true ∧ held.env.rst = true
      ∧ ([.releaseRst, .stopClk, .startClk] : List Turn).all
        (fun u => [scanning, held, frozen].all fun s => (withTurns [u] s).env.turns = [u]) := by decide

theorem witness_SequencerCountsDown : scanning.blk.phaseAgrees configA ∧ scanning.blk.phase ≠ .idle := by
  constructor
  · exact ⟨fun _ => ⟨by decide, by decide⟩, fun h => absurd h (by decide)⟩
  · decide

/-- BitIndexIsRowMajorRank, LinesMeetAtOnePosition (its lines counted, in a matrix that is not square): the last position of Config A, in both directions. -/
theorem witness_positions :
    configA.wired 2 2 = true ∧ 2 < configA.nRows ∧ 2 < configA.nCols ∧ configA.dir = .rowsDrive
      ∧ configA1.dir = .colsDrive ∧ configA.idx 2 2 = 7 ∧ 7 < configA.numKeys
      ∧ configC.dir = .rowsDrive ∧ configC.nRows ≠ configC.nCols := by decide

/-- SampleUpdateSetsLowLines: the last drive line of Config A. -/
theorem witness_SampleUpdateSetsLowLines : configA.legal = true ∧ 2 < configA.numDrive ∧ 1023 < 1024 := by
  decide

/-- ScanResultIsSensedLevels: the last position, and the first index at or above K. -/
theorem witness_ScanResultIsSensedLevels :
    2 < configA.numDrive ∧ 2 < configA.numSense ∧ configA.wired (configA.pos 2 2).1 (configA.pos 2 2).2 = true
      ∧ configA.numKeys ≤ 8 := by decide

/-- KeycodeClassification: the last bit; every class has members at its ends. -/
theorem witness_KeycodeClassification :
    7 < 8 ∧ (0x04 : Byte).toNat = 0x04 ∧ (0xDD : Byte).toNat = 0xDD ∧ (0xE0 : Byte).toNat = 0xE0
      ∧ (0xE7 : Byte).toNat = 0xE7 := by decide

/-- SixKroFrameLayout, NkroFrameLayout: a Modifier and a Normal key pressed in Config A. -/
theorem witness_frames :
    encoding.blk.key configA 3 = true ∧ keyClass (keycode configA 0 3) = .modifier
      ∧ encoding.blk.key configA 0 = true ∧ (keycode configA 0 0).toNat = 0x04 ∧ 3 < configA.numKeys := by decide +kernel

theorem witness_EmptyBitmapFrames : ∀ i, i < configA.numKeys → idle.blk.bitmap.getLsbD i = false := by
  intro i _
  exact BitVec.getLsbD_zero

/-- EncoderIsPure: Config A and Config A1, and two blocks that differ above K and elsewhere. -/
theorem witness_EncoderIsPure :
    configA.numKeys = configA1.numKeys
      ∧ (∀ i, i < configA.numKeys → keycode configA 1 i = keycode configA1 1 i)
      ∧ ∀ i, i < configA.numKeys →
        (idle.blk.bitmap ||| 0x100).getLsbD i = ({ idle.blk with ie := true } : Block).bitmap.getLsbD i := by
  decide +kernel

/-- InterruptIsLevel: words that clear DONE, clear IE and set IE, and a block with DONE set. -/
theorem witness_InterruptIsLevel :
    (0x00000002 : Word).getLsbD 1 = true ∧ (0x00000001 : Word).getLsbD 8 = false ∧ (0x00000100 : Word).getLsbD 8 = true
      ∧ ({ idle.blk with done := true } : Block).done = true := by decide

/-- ResetAbandonsTheCommand: `rst` rises in the middle of a scan. -/
theorem witness_ResetAbandonsTheCommand :
    scanning.params.legal = true ∧ (withTurns [.assertRst] scanning).env.turns = .assertRst :: [] := by decide

/-- ResetHoldsTheBlock: a step while `rst = 1`, the host's next line being a bus write. -/
theorem witness_ResetHoldsTheBlock :
    (hostWrites 0x00C 1 held).env.rst = true
      ∧ (look (fun t => t.env.host.line) (step (hostWrites 0x00C 1 held)) = some 0)
      ∧ (hostWrites 0x00C 1 held).env.host.current = some (.wr 0x00C 1) ∧ (HostLine.wr 0x00C 1).isBus = true := by
  decide

/-- StoppedClockHoldsTheBlock: a sequencer turn, and the assertion of `rst`, with the clock stopped. -/
theorem witness_StoppedClockHoldsTheBlock :
    frozen.env.clkOn = false ∧ frozen.env.rst = false
      ∧ look (fun t => t.blk) (step (withTurns [.sequencer] frozen)) = some frozen.blk
      ∧ look (fun t => t.blk) (step (withTurns [.assertRst] frozen)) = some (Block.reset configA) :=
  ⟨by decide, by decide, rfl, rfl⟩

/-- StepRunsTheCommandWord: the host's next line writes SCAN to CMD. -/
theorem witness_StepRunsTheCommandWord :
    let s := hostWrites 0x00C 0xFFFFFF01 idle
    s.params.legal = true ∧ s.env.rst = false ∧ s.env.clkOn = true ∧ s.nextTurn = some .host
      ∧ s.env.host.current = some (.wr 0x00C 0xFFFFFF01) ∧ (0x00C : Addr) &&& 0x3FFC = 0x000C := by
  decide

/-- HostLinesRun: a state on the host's turn whose next line is a read, a check, a label or a branch. -/
theorem witness_HostLinesRun :
    let s := hostWrites 0x00C 1 idle
    let h : HostAgent := { HostAgent.empty with prog := hostWaitIdle 0 1, temps := [(1, 0x1)] }
    s.params.legal = true ∧ s.env.rst = false ∧ s.env.clkOn = true ∧ s.nextTurn = some .host
      ∧ (s.withHost h).nextTurn = some .host ∧ (s.withHost h).env.host.current = some (.label 0)
      ∧ ({ h with line := 1 } : HostAgent).current = some (.rd 0x010 1)
      ∧ ({ h with line := 2 } : HostAgent).current = some (.bnz 1 0x1 0) ∧ (HostLine.label 0).isBus = false
      ∧ tempsWf h.temps = true ∧ h.labelLine 0 = some 0 := by decide

/-- IllegalElaborationRefused: an elaboration for each clause, at the edge of its range where it has one. -/
theorem witness_IllegalElaborationRefused :
    ({ configA with nRows := 0 } : Params).nRows = 0 ∧ 32 < ({ configA with nRows := 33 } : Params).nRows
      ∧ ({ configA with nCols := 0 } : Params).nCols = 0 ∧ 32 < ({ configA with nCols := 33 } : Params).nCols
      ∧ ({ configA with layout := [] } : Params).layout.length ≠ configA.nRows
      ∧ (∃ row ∈ ({ configA with layout := [[true], [], []] } : Params).layout, row.length ≠ configA.nCols)
      ∧ ({ configA with layout := List.replicate 3 (List.replicate 3 false) } : Params).numKeys = 0
      ∧ ({ configA with nLayers := 0 } : Params).nLayers = 0 ∧ 5 < ({ configA with nLayers := 6 } : Params).nLayers
      ∧ ({ configA with keymap := [] } : Params).keymap.length ≠ configA.nLayers
      ∧ (∃ layer ∈ ({ configA with keymap := [[], []] } : Params).keymap, layer.length ≠ configA.numKeys)
      ∧ 65535 < ({ configA with settleReset := 65536 } : Params).settleReset := by decide

/-- StepsGoOn: a program that waits for the block. -/
theorem witness_StepsGoOn :
    idle.params.legal = true ∧ ({ HostAgent.empty with prog := hostScan ++ hostWaitIdle 0 1 } : HostAgent).ok = true := by
  decide

/-- A block in the middle of a scan meets the invariant. -/
theorem quickScan_blk_inv : quickScan.blk.Inv configA where
  busy := by unfold Block.busyAgrees; decide
  drive := by unfold Block.driveAgrees; decide
  phase := ⟨fun _ => ⟨by decide, by decide⟩, fun h => absurd h (by decide)⟩
  layers := ⟨by decide, by decide⟩
  bits := fun i _ => ⟨BitVec.getLsbD_zero, BitVec.getLsbD_zero⟩
  count := fun h => absurd h (by decide)
  report := ⟨.inl rfl, fun j _ => reportByte_zeros j, fun h => absurd rfl h⟩

/-- The schedule of the witness below: the host moves once among the six sequencer steps of the scan. -/
def mixedTurns : List Turn := [.sequencer, .host, .sequencer, .sequencer, .sequencer, .sequencer]

/-- A scan with that schedule meets the machine invariant. -/
theorem mixed_inv : (withTurns (mixedTurns ++ [.sequencer]) quickScan).Inv where
  legal := by decide
  blk := quickScan_blk_inv
  held := fun h => absurd h (by decide)
  temps := rfl

/-- StepKeepsInvariant: a state with the invariant whose step goes on. -/
theorem witness_StepKeepsInvariant :
    (withTurns (mixedTurns ++ [.sequencer]) quickScan).Inv
      ∧ look (fun t => t.blk.phase) (step (withTurns (mixedTurns ++ [.sequencer]) quickScan)) = some .settle :=
  ⟨mixed_inv, by decide⟩

/-- HostCannotDisturbCommand: a busy block, and a host write that goes on. -/
theorem witness_HostCannotDisturbCommand :
    (hostWrites 0x014 5 scanning).blk.busy = true
      ∧ look (fun t => t.blk.settle) (takeTurn .host (hostWrites 0x014 5 scanning)) = some 5 := by decide

/-- IdleBlockKeepsResults: an idle block, and a host write to a BITMAP word. -/
theorem witness_IdleBlockKeepsResults :
    let s := hostWrites 0x040 0x55 idle
    s.blk.busy = false ∧ s.blk.phase = .idle ∧ s.env.rst = false ∧ s.nextTurn ≠ some .assertRst
      ∧ look (fun t => decide (t.blk.bitmap ≠ s.blk.bitmap)) (step s) = some true := by decide +kernel

/-- DoneIsSticky: DONE falls by a STATUS write. -/
theorem witness_DoneIsSticky :
    let s := hostWrites 0x010 0x2 (idle.withBlk { idle.blk with done := true })
    s.env.rst = false ∧ s.blk.done = true ∧ look (fun t => t.blk.done) (step s) = some false := by decide

/-- ErrorFlagsRaisedOnlyByHost: each of the three writes that raise a flag. -/
theorem witness_ErrorFlagsRaisedOnlyByHost :
    idle.env.rst = false ∧ idle.blk.errCmd = false ∧ scanning.env.rst = false ∧ scanning.blk.errBusy = false
      ∧ look (fun t => t.blk.errCmd) (step (hostWrites 0x00C 0x04 idle)) = some true
      ∧ look (fun t => t.blk.errBusy) (step (hostWrites 0x00C 0x02 scanning)) = some true
      ∧ look (fun t => t.blk.errBusy) (step (hostWrites 0x040 0x55 scanning)) = some true := by decide

/-- CommandFinishesUnderAnySchedule: the scan of `quickScan` under `mixedTurns`. -/
theorem witness_CommandFinishesUnderAnySchedule :
    let s := withTurns (mixedTurns ++ [.sequencer]) quickScan
    s.Inv ∧ s.env.host.ok = true ∧ s.env.rst = false ∧ s.env.clkOn = true ∧ s.blk.busy = true
      ∧ s.env.turns = mixedTurns ++ .sequencer :: [] ∧ (∀ u ∈ mixedTurns, u.isAgent = true)
      ∧ mixedTurns.count .sequencer + 1 = s.blk.stepsLeft s.params :=
  ⟨mixed_inv, rfl, rfl, rfl, rfl, rfl, by decide, by decide⟩

/-! ### Witnesses over infinite runs -/

/-- The run from a state, as long as its steps go on. -/
def runFrom (s : State) : Nat → State
  | 0 => s
  | n + 1 => (nextOf (step (runFrom s n))).getD (runFrom s n)

/-- From a state that steps to itself the run stays there. -/
theorem runFrom_settled {s : State} {k : Nat} (h : step (runFrom s k) = .next (runFrom s k)) :
    ∀ j, k ≤ j → runFrom s j = runFrom s k := by
  intro j hj
  induction j, hj using Nat.le_induction with
  | base => rfl
  | succ j _ ih => rw [runFrom, ih, h]; rfl

/-- A run that goes on k times and then settles is an infinite run. -/
theorem runFrom_isRun {s : State} {k : Nat} (hgo : ∀ j, j < k → (nextOf (step (runFrom s j))).isSome = true)
    (h : step (runFrom s k) = .next (runFrom s k)) : IsRun (runFrom s) := by
  intro j
  rcases Nat.lt_or_ge j k with hj | hj
  · have := hgo j hj
    rw [runFrom]
    cases ho : step (runFrom s j) with
    | next t => rfl
    | fault r => rw [ho] at this; cases this
    | refused r => rw [ho] at this; cases this
  · rw [runFrom_settled h j hj, runFrom_settled h (j + 1) (by omega), h]

/-- An ENCODE of the empty bitmap, just accepted. -/
def encodingEmpty : State := idle.withBlk (idle.blk.accept .encode)

theorem encodingEmpty_inv : encodingEmpty.Inv where
  legal := by decide
  blk :=
    { busy := by unfold Block.busyAgrees; decide
      drive := by unfold Block.driveAgrees; decide
      phase := ⟨fun h => absurd h (by decide), fun _ => by decide⟩
      layers := ⟨by decide, by decide⟩
      bits := fun i _ => ⟨BitVec.getLsbD_zero, BitVec.getLsbD_zero⟩
      count := fun h => absurd h (by decide)
      report := ⟨.inl rfl, fun j _ => reportByte_zeros j, fun h => absurd rfl h⟩ }
  held := fun h => absurd h (by decide)
  temps := rfl

theorem encodingEmpty_settles : step (runFrom encodingEmpty 1) = .next (runFrom encodingEmpty 1) := rfl

/-- EveryRunIsWeaklyFair, FairRunsFinishCommands: the run of that ENCODE, and its fairness. -/
theorem witness_FairRunsFinishCommands :
    IsRun (runFrom encodingEmpty) ∧ WeaklyFair (runFrom encodingEmpty) ∧ (runFrom encodingEmpty 0).Inv
      ∧ (runFrom encodingEmpty 0).blk.busy = true
      ∧ ∀ k, (runFrom encodingEmpty k).env.rst = false ∧ (runFrom encodingEmpty k).env.clkOn = true := by
  refine ⟨runFrom_isRun (k := 1) ?_ encodingEmpty_settles, ?_, encodingEmpty_inv, rfl, ?_⟩
  · intro j hj
    obtain rfl : j = 0 := by omega
    rfl
  · intro k h
    have := h (k + 1) (by omega)
    rw [runFrom_settled encodingEmpty_settles (k + 1) (by omega)] at this
    exact absurd this (by decide)
  · intro k
    cases k with
    | zero => exact ⟨rfl, rfl⟩
    | succ k => rw [runFrom_settled encodingEmpty_settles (k + 1) (by omega)]; exact ⟨rfl, rfl⟩

/-- An idle block whose host waits for it. -/
def waiting : State := idle.withHost { HostAgent.empty with prog := hostWaitIdle 0 1 }

theorem waiting_settles : step (runFrom waiting 3) = .next (runFrom waiting 3) := rfl

/-- WaitIdleLoopEnds: the run of that loop. -/
theorem witness_WaitIdleLoopEnds :
    IsRun (runFrom waiting)
      ∧ (∀ k, (runFrom waiting k).env.rst = false ∧ (runFrom waiting k).env.clkOn = true) ∧ (runFrom waiting 0).Inv
      ∧ (runFrom waiting 0).env.host.prog[0]? = some (.label 0)
      ∧ (runFrom waiting 0).env.host.prog[1]? = some (.rd 0x010 1)
      ∧ (runFrom waiting 0).env.host.prog[2]? = some (.bnz 1 0x1 0)
      ∧ (runFrom waiting 0).env.host.labelLine 0 = some 0 ∧ (runFrom waiting 0).env.host.line = 0 := by
  refine ⟨runFrom_isRun (k := 3) ?_ waiting_settles, ?_, ?_, rfl, rfl, rfl, rfl, rfl⟩
  · intro j hj
    match j, hj with
    | 0, _ => rfl
    | 1, _ => rfl
    | 2, _ => rfl
  · intro k
    match k with
    | 0 => exact ⟨rfl, rfl⟩
    | 1 => exact ⟨rfl, rfl⟩
    | 2 => exact ⟨rfl, rfl⟩
    | k + 3 => rw [runFrom_settled waiting_settles (k + 3) (by omega)]; exact ⟨rfl, rfl⟩
  · exact {
      legal := by decide
      blk :=
        { busy := by unfold Block.busyAgrees; decide
          drive := by unfold Block.driveAgrees; decide
          phase := ⟨fun h => absurd h (by decide), fun h => absurd h (by decide)⟩
          layers := ⟨by decide, by decide⟩
          bits := fun i _ => ⟨BitVec.getLsbD_zero, BitVec.getLsbD_zero⟩
          count := fun h => absurd h (by decide)
          report := ⟨.inl rfl, fun j _ => reportByte_zeros j, fun h => absurd rfl h⟩ }
      held := fun h => absurd h (by decide)
      temps := rfl }

end Sys2Proof.Tests
end

section
/-! PROOFS. The statements of 00_scope: what is refused at elaboration (R6). -/

namespace Sys2Proof.Machine

/-- The counterpart of `step_of_legal`: no turn is taken on an illegal elaboration (00_scope R6, log 15). -/
theorem step_of_not_legal {s : State} (h : ¬ s.params.legal = true) : step s = .refused .illegalElaboration :=
  if_neg h

/-- Settles O49: each listed condition contradicts its own conjunct of legality, so no block is produced. -/
theorem illegalElaborationRefused : Obligations.IllegalElaborationRefused := by
  intro s hbad
  refine step_of_not_legal fun hlegal => ?_
  obtain ⟨hrows, hcols, ⟨hlayout, hrow⟩, hkeys, hlayers, ⟨hkeymap, hlayer⟩, hsettle, -, -⟩ :=
    s.params.legal_iff.1 hlegal
  obtain h | h | h | h | h | ⟨row, hmem, h⟩ | h | h | h | h | ⟨layer, hmem, h⟩ | h := hbad
  · omega
  · omega
  · omega
  · omega
  · exact h hlayout
  · exact h (hrow row hmem)
  · omega
  · omega
  · omega
  · exact h hkeymap
  · exact h (hlayer layer hmem)
  · omega

end Sys2Proof.Machine
end

section
/-! PROOFS. The machine invariant (10_state R26, R28, R31, R33, R35, R37): reset meets it, every move of the block
keeps it, and so does every step. -/

namespace Sys2Proof.Machine

/-! ### The report buffer (10_state R33, 42_encode R131, R132) -/

/-- A frame of at most `n` bytes: the report ID in byte 0, zeros from byte `n` on. -/
def ReportForm (n : Nat) (rb : Report) : Prop := reportByte rb 0 = 0x01 ∧ ∀ j, n ≤ j → reportByte rb j = 0

theorem freshReport_form {n : Nat} (hn : 0 < n) : ReportForm n freshReport :=
  ⟨by rw [reportByte_freshReport, if_pos rfl], fun j hj => by rw [reportByte_freshReport, if_neg (by omega)]⟩

/-- A write behind byte 0 and within the frame keeps the form. -/
theorem ReportForm.put {n j : Nat} {rb : Report} (h : ReportForm n rb) (v : Byte) (h0 : 0 < j) (hj : j < n) :
    ReportForm n (putReport rb j v) := by
  obtain ⟨hid, hzero⟩ := h
  refine ⟨?_, fun k hk => ?_⟩
  · rw [reportByte_putReport, if_neg (by omega), hid]
  · rw [reportByte_putReport, if_neg (by omega), hzero k hk]

/-- A 6KRO key writes the modifier byte or one of bytes 3 to 8 (42_encode R123). -/
theorem sixKroKey_form (p : Params) (l : BitVec 3) (b : Block) (st : Report × Nat) (i : Nat)
    (h : ReportForm 9 st.1) : ReportForm 9 (sixKroKey p l b st i).1 := by
  unfold sixKroKey
  split
  · split
    · split
      · exact h.put _ (by omega) (by omega)
      · exact h
    · exact h.put _ (by omega) (by omega)
    · exact h
  · exact h

/-- An NKRO key writes the modifier byte or one of the presence bytes (42_encode R128, R129). -/
theorem nkroKey_form (p : Params) (l : BitVec 3) (b : Block) (rb : Report) (i : Nat) (h : ReportForm 34 rb) :
    ReportForm 34 (nkroKey p l b rb i) := by
  unfold nkroKey
  split
  · split
    · have hrange := nkroByte_range _ ‹_›
      exact h.put _ (by omega) (by omega)
    · exact h.put _ (by omega) (by omega)
    · exact h
  · exact h

theorem constructSixKro_form (p : Params) (l : BitVec 3) (b : Block) : ReportForm 9 (constructSixKro p l b) :=
  List.foldlRecOn (motive := fun st => ReportForm 9 st.1) _ _ (freshReport_form (by omega))
    fun st h i _ => sixKroKey_form p l b st i h

theorem constructNkro_form (p : Params) (l : BitVec 3) (b : Block) : ReportForm 34 (constructNkro p l b) :=
  List.foldlRecOn (motive := ReportForm 34) _ _ (freshReport_form (by omega))
    fun rb h i _ => nkroKey_form p l b rb i h

/-- The ENC step writes RB and RLEN alone, and they agree (10_state R28, R33). -/
theorem Block.encodeReport_form (p : Params) (b : Block) :
    ∃ rb n, b.encodeReport p = { b with rb := rb, rlen := n } ∧ (n = 9 ∨ n = 34) ∧ ReportForm n.toNat rb := by
  unfold Block.encodeReport
  split
  · exact ⟨_, 9, rfl, .inl rfl, constructSixKro_form p _ b⟩
  · exact ⟨_, 34, rfl, .inr rfl, constructNkro_form p _ b⟩

/-! ### Bits at or above K (10_state R31, R35) -/

/-- A masked vector has no bit at or above K. -/
theorem getLsbD_and_keyMask_of_ge (p : Params) (m : KeyBits) {i : Nat} (hi : p.numKeys ≤ i) :
    (m &&& p.keyMask).getLsbD i = false := by
  rw [BitVec.getLsbD_and, p.getLsbD_keyMask, decide_eq_false (by omega), Bool.and_false]

/-- A sense check sets a bit of a non-empty position, whose index is below K (41_scan R101, R105). -/
theorem senseCheck_belowK (p : Params) (hl : p.legal = true) {d j i : Nat} (hd : d < p.numDrive)
    (hj : j < p.numSense) (lv : Levels) {acc : KeyBits} (h : acc.getLsbD i = false) (hi : p.numKeys ≤ i) :
    (senseCheck p d lv acc j).getLsbD i = false := by
  unfold senseCheck
  split_ifs with hw
  · rw [Bool.and_eq_true] at hw
    have hidx := p.idx_lt hl (p.pos_bounds hd hj).2 hw.1
    have hne : p.idx (p.pos d j).1 (p.pos d j).2 ≠ i := by omega
    simp [h, hne]
  · exact h

theorem sampleUpdate_belowK (p : Params) (hl : p.legal = true) {d i : Nat} (hd : d < p.numDrive) (lv : Levels)
    {acc : KeyBits} (h : acc.getLsbD i = false) (hi : p.numKeys ≤ i) :
    (sampleUpdate p d lv acc).getLsbD i = false :=
  List.foldlRecOn (motive := fun a : KeyBits => a.getLsbD i = false) _ _ h
    fun _ ha _ hj => senseCheck_belowK p hl hd (List.mem_range.1 hj) lv ha hi

/-! ### Each move of the block keeps the invariant -/

/-- The block after reset (10_state R39). -/
theorem Block.reset_inv (p : Params) (hl : p.legal = true) : (Block.reset p).Inv p := by
  have hlayers := (p.legal_iff.1 hl).2.2.2.2.1.1
  exact {
    busy := by simp [Block.busyAgrees, Block.reset]
    drive := rfl
    phase := ⟨fun h => by simp [Block.reset] at h, fun h => by simp [Block.reset] at h⟩
    layers := ⟨hlayers, hlayers⟩
    bits := fun i _ => ⟨BitVec.getLsbD_zero, BitVec.getLsbD_zero⟩
    count := fun h => by simp [Block.reset] at h
    report := ⟨.inl rfl, fun j _ => reportByte_zeros j, fun h => absurd rfl h⟩ }

section
variable {p : Params} {b : Block} (hi : b.Inv p)
include hi

/-- An idle block is in phase IDLE (10_state R35). -/
theorem Block.Inv.phase_idle (h : b.busy = false) : b.phase = .idle := by
  by_contra hp
  rw [hi.busy.2 hp] at h
  cases h

/-- A block not in SETTLE has every drive line high (10_state R37). -/
theorem Block.Inv.drive_high (h : b.phase ≠ .settle) : b.drive = allHigh := by
  rw [hi.drive, if_neg h]

/-- Acceptance starts at line 0 with an empty accumulator, or at the ENC step, every line being high (R86). -/
theorem Block.Inv.accept (hl : p.legal = true) (op : Op) (idle : b.busy = false) : (b.accept op).Inv p := by
  have hdrive := hi.drive_high (by simp [hi.phase_idle idle])
  have hlayer := hi.layers.1
  have hN := (p.numDrive_range hl).1
  by_cases ho : op = .encode
  · subst ho
    exact {
      busy := ⟨fun _ => nofun, fun _ => rfl⟩
      drive := hdrive
      phase := ⟨nofun, fun _ => nofun⟩
      layers := ⟨hlayer, hlayer⟩
      bits := hi.bits
      count := nofun
      report := hi.report }
  · rw [b.accept_scanning ho]
    exact {
      busy := ⟨fun _ => nofun, fun _ => rfl⟩
      drive := hdrive
      phase := ⟨fun _ => ⟨hN, ho⟩, nofun⟩
      layers := ⟨hlayer, hlayer⟩
      bits := fun i hK => ⟨(hi.bits i hK).1, BitVec.getLsbD_zero⟩
      count := nofun
      report := hi.report }

/-- A CTRL write sets LAYER to a layer or keeps it (R26). -/
theorem Block.Inv.writeCtrl (v : Word) : (b.writeCtrl p v).Inv p where
  busy := hi.busy
  drive := hi.drive
  phase := hi.phase
  layers := by
    refine ⟨?_, hi.layers.2⟩
    rw [Block.writeCtrl_layer]
    split
    · assumption
    · exact hi.layers.1
  bits := hi.bits
  count := hi.count
  report := hi.report

/-- A BITMAP write sets no bit at or above K (R32). -/
theorem Block.Inv.putBitmapWord (w : Nat) (v : Word) : (b.putBitmapWord p w v).Inv p where
  busy := hi.busy
  drive := hi.drive
  phase := hi.phase
  layers := hi.layers
  bits := fun i hK => by
    obtain ⟨hbm, hacc⟩ := hi.bits i hK
    refine ⟨?_, hacc⟩
    rw [Block.putBitmapWord_bitmap, BitVec.getLsbD_or, BitVec.getLsbD_and, hbm,
      getLsbD_and_keyMask_of_ge p _ hK, Bool.false_and, Bool.false_or]
  count := hi.count
  report := hi.report

/-! ### The sequencer step, phase by phase (40_command R90) -/

/-- The ASSERT step makes line d low and loads the counter. -/
theorem Block.Inv.assertLine (h : b.phase = .assert) : b.assertLine.Inv p where
  busy := ⟨fun _ => nofun, fun _ => hi.busy.2 (by simp [h])⟩
  drive := by
    show driveLow b.drive b.d = driveLow allHigh b.d
    rw [hi.drive_high (by simp [h])]
  phase := ⟨fun _ => hi.phase.1 (.inl h), nofun⟩
  layers := hi.layers
  bits := hi.bits
  count := fun _ => BitVec.le_refl b.settleL
  report := hi.report

/-- A settle-wait step counts down from a nonzero count. -/
theorem Block.Inv.settleWait (hc : b.cnt ≠ 0) : b.settleWait.Inv p where
  busy := hi.busy
  drive := hi.drive
  phase := hi.phase
  layers := hi.layers
  bits := hi.bits
  count := fun h => by
    have hle : b.cnt ≤ b.settleL := hi.count h
    show b.cnt - 1 ≤ b.settleL
    bv_omega
  report := hi.report

/-- Sampling line d releases the one low line, and sets no bit at or above K. -/
theorem Block.Inv.takeSample_drive_bits (hl : p.legal = true) (lv : Levels) (h : b.phase = .settle) :
    (b.takeSample p lv).drive = allHigh ∧ (b.takeSample p lv).bitsBelowK p := by
  constructor
  · rw [Block.takeSample_drive, hi.drive, if_pos h, driveHigh_driveLow, driveHigh_allHigh]
  · intro i hK
    obtain ⟨hbm, hacc⟩ := hi.bits i hK
    exact ⟨hbm, sampleUpdate_belowK p hl (hi.phase.1 (.inr h)).1 lv hacc hK⟩

/-- The sample step goes on to the next line, to the ENC step, or ends the scan. -/
theorem Block.Inv.sampleStep (hl : p.legal = true) (lv : Levels) (h : b.phase = .settle) :
    (b.sampleStep p lv).Inv p := by
  obtain ⟨hdrive, hbits⟩ := hi.takeSample_drive_bits hl lv h
  have hbusy : b.busy = true := hi.busy.2 (by simp [h])
  have hop := (hi.phase.1 (.inr h)).2
  have hpub : ((b.takeSample p lv).publishScan p).bitsBelowK p := fun i hK =>
    ⟨getLsbD_and_keyMask_of_ge p _ hK, (hbits i hK).2⟩
  unfold Block.sampleStep Block.afterSample
  split_ifs with hnext henc
  · exact {
      busy := ⟨fun _ => nofun, fun _ => hbusy⟩
      drive := hdrive
      phase := ⟨fun _ => ⟨hnext, hop⟩, nofun⟩
      layers := hi.layers
      bits := hbits
      count := nofun
      report := hi.report }
  · have hscan : b.opL ≠ .scan := fun e => by simp [e] at henc
    exact {
      busy := ⟨fun _ => nofun, fun _ => hbusy⟩
      drive := hdrive
      phase := ⟨nofun, fun _ => hscan⟩
      layers := hi.layers
      bits := hpub
      count := nofun
      report := hi.report }
  · exact {
      busy := ⟨nofun, fun h => absurd rfl h⟩
      drive := hdrive
      phase := ⟨nofun, nofun⟩
      layers := hi.layers
      bits := hpub
      count := nofun
      report := hi.report }

/-- The ENC step writes a whole frame and ends the command. -/
theorem Block.Inv.encodeStep (h : b.phase = .enc) : (b.encodeReport p).finish.Inv p := by
  obtain ⟨rb, n, heq, hn, hid, hzero⟩ := b.encodeReport_form p
  rw [heq]
  exact {
    busy := ⟨nofun, fun h => absurd rfl h⟩
    drive := hi.drive_high (by simp [h])
    phase := ⟨nofun, nofun⟩
    layers := hi.layers
    bits := hi.bits
    count := nofun
    report := ⟨.inr hn, hzero, fun _ => hid⟩ }

theorem Block.Inv.seqStep (hl : p.legal = true) (lv : Levels) : (b.seqStep p lv).Inv p := by
  cases h : b.phase with
  | idle => rwa [b.seqStep_idle p lv h]
  | assert =>
    rw [b.seqStep_assert p lv h]
    exact hi.assertLine h
  | settle =>
    by_cases hc : b.cnt = 0
    · rw [b.seqStep_sample p lv h hc]
      exact hi.sampleStep hl lv h
    · rw [b.seqStep_wait p lv h hc]
      exact hi.settleWait hc
  | enc =>
    rw [b.seqStep_enc p lv h]
    exact hi.encodeStep h

end

/-- Every move of the block keeps its invariant. -/
theorem BlockMove.keeps_inv {p : Params} {b c : Block} (hl : p.legal = true) (hi : b.Inv p) (h : BlockMove p b c) :
    c.Inv p := by
  cases h with
  | stay => exact hi
  | accept op idle => exact hi.accept hl op idle
  | ctrl v => exact hi.writeCtrl v
  | errCmd | errBusy | status | settle =>
    exact ⟨hi.busy, hi.drive, hi.phase, hi.layers, hi.bits, hi.count, hi.report⟩
  | bitmap w v => exact hi.putBitmapWord w v
  | sequencer lv => exact hi.seqStep hl lv
  | reset => exact Block.reset_inv p hl

/-! ### The rest of the machine -/

/-- A host line keeps the temporaries canonical (log 4). -/
theorem runLine_temps {line : HostLine} {s t : State} (h : runLine line s = .next t)
    (hw : tempsWf s.env.host.temps = true) : tempsWf t.env.host.temps = true := by
  cases line with
  | wr a v =>
    obtain ⟨b, hb, -⟩ := busWrite_eq a v s
    rw [runLine, hb] at h
    cases h
    exact hw
  | rd a u => cases h; exact tempSet_wf _ _ hw
  | rdCheck a v => cases h; exact hw
  | label l => cases h; exact hw
  | bz u m l =>
    simp only [runLine] at h
    split_ifs at h
    · obtain ⟨n, rfl⟩ := hostGoto_next h; exact hw
    · cases h; exact hw
  | bnz u m l =>
    simp only [runLine] at h
    split_ifs at h
    · cases h; exact hw
    · obtain ⟨n, rfl⟩ := hostGoto_next h; exact hw
  | wrNarrow n a v => cases h
  | rdNarrow n a u => cases h; exact tempSet_wf _ _ hw

theorem hostStep_temps {s t : State} (h : hostStep s = .next t) (hw : tempsWf s.env.host.temps = true) :
    tempsWf t.env.host.temps = true := by
  unfold hostStep at h
  split at h
  · split at h
    · exact runLine_temps (s := s.advance) h hw
    · cases h; exact hw
  · cases h; exact hw

@[simp] theorem sequencerStep_host (s : State) : (sequencerStep s).env.host = s.env.host := by
  unfold sequencerStep Env.sampled
  split <;> [split; skip] <;> rfl

@[simp] theorem sequencerStep_rst (s : State) : (sequencerStep s).env.rst = s.env.rst := by
  unfold sequencerStep Env.sampled
  split <;> [split; skip] <;> rfl

theorem takeTurn_temps {u : Turn} {s t : State} (h : takeTurn u s = .next t) (hw : tempsWf s.env.host.temps = true) :
    tempsWf t.env.host.temps = true := by
  cases u with
  | host => exact hostStep_temps h hw
  | sequencer => cases h; split <;> simpa using hw
  | assertRst => cases h; exact hw
  | releaseRst => cases h; exact hw
  | stopClk => cases h; exact hw
  | startClk => cases h; exact hw

/-- A turn that leaves `rst = 1` either asserted it or found it so, the bus port and the sequencer then being shut
(70 R170, R172). -/
theorem takeTurn_held {u : Turn} {s t : State} (h : takeTurn u s = .next t) (hr : t.env.rst = true) :
    t.blk = Block.reset s.params ∨ (s.env.rst = true ∧ t.blk = s.blk) := by
  cases u with
  | host =>
    have hrst : s.env.rst = true := (hostStep_schedule h).1 ▸ hr
    rcases hostStep_blk h with hb | ⟨a, v, -, hopen, -⟩
    · exact .inr ⟨hrst, hb⟩
    · simp [Env.portOpen, hrst] at hopen
  | sequencer =>
    right
    cases h
    split at hr
    · rename_i he
      simp only [sequencerStep_rst] at hr
      simp [State.sequencerEnabled, hr] at he
    · rename_i he
      exact ⟨hr, by rw [if_neg he]⟩
  | assertRst => cases h; exact .inl rfl
  | releaseRst => cases h; cases hr
  | stopClk => cases h; exact .inr ⟨hr, rfl⟩
  | startClk => cases h; exact .inr ⟨hr, rfl⟩

theorem State.Inv.takeTurn {u : Turn} {s t : State} (hi : s.Inv) (h : takeTurn u s = .next t) : t.Inv := by
  obtain ⟨hp, hmove, -⟩ := takeTurn_next h
  exact {
    legal := hp ▸ hi.legal
    blk := hp ▸ hmove.keeps_inv hi.legal hi.blk
    held := fun hr => by
      rw [hp]
      rcases takeTurn_held h hr with hb | ⟨hrst, hb⟩
      · exact hb
      · rw [hb, hi.held hrst]
    temps := takeTurn_temps h hi.temps }

/-- Holding the block in reset changes nothing of a state that meets the invariant. -/
theorem State.Inv.holdReset_eq {s : State} (hi : s.Inv) : s.holdReset = s := by
  unfold State.holdReset
  split_ifs with hr
  · rw [← hi.held hr]; rfl
  · rfl

/-- Using a turn up touches nothing the invariant speaks of. -/
theorem State.Inv.useTurn {s : State} (hi : s.Inv) : s.useTurn.Inv where
  legal := by simpa using hi.legal
  blk := by simpa using hi.blk
  held := by simpa using hi.held
  temps := by simpa using hi.temps

/-- Settles O52: a step uses a turn up and takes it, and every turn keeps the invariant. -/
theorem stepKeepsInvariant : Obligations.StepKeepsInvariant := by
  intro s t hi h
  rw [step_of_legal hi.legal, runStep, hi.holdReset_eq] at h
  split at h
  · exact hi.useTurn.takeTurn h
  · cases h; exact hi

/-- The machine right after reset. -/
theorem State.resetWith_inv (p : Params) (hl : p.legal = true) : (State.resetWith p).Inv where
  legal := hl
  blk := Block.reset_inv p hl
  held := nofun
  temps := rfl

/-- Settles O51: the block's reset state meets the block invariant; the reference elaboration is legal. -/
theorem resetMeetsInvariant : Obligations.ResetMeetsInvariant :=
  ⟨State.resetWith_inv, State.resetWith_inv _ (by decide)⟩

end Sys2Proof.Machine
end

section
/-! PROOFS. Register reads (10_state R23 to R34, 20_memory R53, R55): what a bus read returns at each address of the
map, and the reset values (10_state R39) as reads show them. -/

namespace Sys2Proof.Machine

/-! ### Which reads are not free (20_memory R55, R59) -/

/-- A read that is not free returns the register's word (20_memory R55). -/
theorem busReadValue_of_not_free {a : Addr} {s : State} (h : s.readsFree (wordOffset a) = false) :
    busReadValue a s = regWord s.params s.blk (wordOffset a) := by
  rw [busReadValue, h]; rfl

/-- Out of reset, a place outside BITMAP and REPORT reads its register, busy or not. -/
theorem busReadValue_outside {a : Addr} {s : State} (hr : s.env.rst = false)
    (hb : inBitmap (wordOffset a) = false) (hrep : inReport (wordOffset a) = false) :
    busReadValue a s = regWord s.params s.blk (wordOffset a) :=
  busReadValue_of_not_free (by simp [State.readsFree, hr, hb, hrep])

/-- Out of reset and idle, every place reads its register. -/
theorem busReadValue_idle {a : Addr} {s : State} (hr : s.env.rst = false) (hb : s.blk.busy = false) :
    busReadValue a s = regWord s.params s.blk (wordOffset a) :=
  busReadValue_of_not_free (by simp [State.readsFree, hr, hb])

/-- Below 0x040 stand the registers proper, which read the same busy or not (20_memory R52). -/
theorem busReadValue_register {a k : Addr} {s : State} (hr : s.env.rst = false) (ha : a &&& 0x3FFC = k)
    (hk : k.toNat < 0x0040) : busReadValue a s = regWord s.params s.blk k.toNat := by
  have hoff : wordOffset a = k.toNat := (wordOffset_eq_iff a k).2 ha
  rw [← hoff] at hk ⊢
  exact busReadValue_outside hr (decide_eq_false (by omega)) (decide_eq_false (by omega))

/-! ### The word at each offset (20_memory R55) -/

/-- From 0x040 on the word is one of the three windows' or 0 (20_memory R53). -/
theorem regWord_of_ge (p : Params) (b : Block) {o : Nat} (ho : 0x0040 ≤ o) :
    regWord p b o =
      if inBitmap o then if bitmapIndex o < p.numWords then b.bitmapWord p (bitmapIndex o) else 0
      else if inReport o then reportWord b.rb (reportIndex o)
      else if inKeymap o then keymapWord p (keymapLayer o) (keymapIndex o) else 0 := by
  unfold regWord
  rw [if_neg (by omega), if_neg (by omega), if_neg (by omega), if_neg (by omega), if_neg (by omega),
    if_neg (by omega)]

/-- Bit k of BITMAP[w] is BM[32w + k] (10_state R31). -/
theorem Block.getLsbD_bitmapWord (p : Params) (b : Block) (w : Nat) {k : Nat} (hk : k < 32) :
    (b.bitmapWord p w).getLsbD k = b.key p (32 * w + k) := by
  rw [Block.bitmapWord, BitVec.getLsbD_extractLsb', BitVec.getLsbD_and, p.getLsbD_keyMask, Block.key]
  by_cases h : 32 * w + k < 1024
  · simp [hk, h, Bool.and_comm]
  · simp [h, BitVec.getLsbD_of_ge b.bitmap _ (Nat.le_of_not_lt h)]

/-- A word from NW on holds no bit below K. -/
theorem Block.bitmapWord_unused (p : Params) (b : Block) {w : Nat} (hw : p.numWords ≤ w) : b.bitmapWord p w = 0 := by
  have hK : p.numKeys ≤ 32 * w := by unfold Params.numWords at hw; omega
  refine BitVec.eq_of_getLsbD_eq fun k hk => ?_
  rw [b.getLsbD_bitmapWord p w hk, Block.key, decide_eq_false (by omega), Bool.false_and]
  exact BitVec.getLsbD_zero.symm

/-- The BITMAP words, the unused ones among them. -/
theorem regWord_bitmap (p : Params) (b : Block) {w : Nat} (hw : w < 32) :
    regWord p b (0x0040 + 4 * w) = b.bitmapWord p w := by
  have hin : inBitmap (0x0040 + 4 * w) = true := decide_eq_true (by omega)
  have hidx : bitmapIndex (0x0040 + 4 * w) = w := by unfold bitmapIndex; omega
  rw [regWord_of_ge p b (by omega), if_pos hin, hidx]
  split_ifs with h
  · rfl
  · exact (b.bitmapWord_unused p (by omega)).symm

/-- Bit k of BITMAP[w] as an idle block shows it. -/
theorem busReadValue_bitmap {w k : Nat} {a : Addr} {s : State} (hr : s.env.rst = false) (hb : s.blk.busy = false)
    (hw : w < 32) (ha : wordOffset a = 0x0040 + 4 * w) (hk : k < 32) :
    (busReadValue a s).getLsbD k = s.blk.key s.params (32 * w + k) := by
  rw [busReadValue_idle hr hb, ha, regWord_bitmap _ _ hw, Block.getLsbD_bitmapWord _ _ _ hk]

theorem regWord_report (p : Params) (b : Block) {m : Nat} (hm : m < 9) :
    regWord p b (0x00C0 + 4 * m) = reportWord b.rb m := by
  have hout : inBitmap (0x00C0 + 4 * m) = false := decide_eq_false (by omega)
  have hin : inReport (0x00C0 + 4 * m) = true := decide_eq_true (by omega)
  have hidx : reportIndex (0x00C0 + 4 * m) = m := by unfold reportIndex; omega
  rw [regWord_of_ge p b (by omega), hout, if_neg Bool.false_ne_true, if_pos hin, hidx]

/-- The offsets of the KEYMAP ROM lie in its window alone (20_memory R52). -/
theorem keymap_window {l q : Nat} (hl : l < 5) (hq : q < 256) :
    inBitmap (0x1000 + 0x400 * l + 4 * q) = false ∧ inReport (0x1000 + 0x400 * l + 4 * q) = false
      ∧ inKeymap (0x1000 + 0x400 * l + 4 * q) = true :=
  ⟨decide_eq_false (by omega), decide_eq_false (by omega), decide_eq_true (by omega)⟩

/-- The KEYMAP words are the parameter's, whatever the block does (10_state R34). -/
theorem busReadValue_keymap {l q : Nat} {a : Addr} {s : State} (hl : l < 5) (hq : q < 256)
    (ha : wordOffset a = 0x1000 + 0x400 * l + 4 * q) (hr : s.env.rst = false) :
    busReadValue a s = keymapWord s.params l q := by
  obtain ⟨hb, hrep, hin⟩ := keymap_window hl hq
  have hlayer : keymapLayer (0x1000 + 0x400 * l + 4 * q) = l := by unfold keymapLayer; omega
  have hindex : keymapIndex (0x1000 + 0x400 * l + 4 * q) = q := by unfold keymapIndex; omega
  rw [busReadValue_outside hr (ha ▸ hb) (ha ▸ hrep), ha, regWord_of_ge _ _ (by omega), hlayer, hindex]
  simp only [hb, hrep, hin, Bool.false_eq_true, if_false, if_true]

/-- A field of a word, by its bits. -/
theorem extractLsb'_eq_of_bits {x : Word} {start n : Nat} {f : BitVec n}
    (h : ∀ i, i < n → x.getLsbD (start + i) = f.getLsbD i) : x.extractLsb' start n = f :=
  BitVec.eq_of_getLsbD_eq fun i hi => by rw [BitVec.getLsbD_extractLsb', decide_eq_true hi, Bool.true_and, h i hi]

/-- Byte k of a word of four bytes, byte 0 the lowest (10_state R33, R34). -/
theorem extract_byte (f : Nat → Byte) {k : Nat} (hk : k < 4) :
    (f 3 ++ f 2 ++ f 1 ++ f 0).extractLsb' (8 * k) 8 = f k := by
  refine extractLsb'_eq_of_bits fun i hi => ?_
  simp only [BitVec.getLsbD_append, Nat.sub_sub]
  interval_cases k <;> grind

/-- Settles O20: the words of both windows, bit by bit and byte by byte. -/
theorem dataRegistersReadWhileIdle : Obligations.DataRegistersReadWhileIdle := by
  intro a s hr hb _
  constructor
  · intro w k hw hk ha
    exact busReadValue_bitmap hr hb hw ha hk
  · intro m k hm hk ha
    rw [busReadValue_idle hr hb, show wordOffset a = 0x00C0 + 4 * m from ha, regWord_report _ _ hm]
    exact extract_byte (fun k => reportByte s.blk.rb (4 * m + k)) hk

/-- Settles O21: a KEYMAP read sees the parameters alone, and a bus write changes the block alone. -/
theorem keymapReadsItsParameter : Obligations.KeymapReadsItsParameter := by
  intro l q k a s hl hq hk ha hr
  rw [busReadValue_keymap hl hq ha hr]
  refine ⟨extract_byte (fun k => s.params.keymapEntry l (4 * q + k)) hk, fun c v t ht => ?_⟩
  obtain ⟨b, hb, -⟩ := busWrite_eq c v s
  cases hb.symm.trans ht
  exact busReadValue_keymap hl hq ha hr

/-! ### CTRL, STATUS and CMD, bit by bit (10_state R25, R28, R30) -/

theorem modeBit_eq (m : Mode) : modeBit m = decide (m = .nkro) := by cases m <;> rfl

theorem Block.getLsbD_ctrlWord (b : Block) (i : Nat) :
    b.ctrlWord.getLsbD i = if i = 0 then decide (b.mode = .nkro) else if 4 ≤ i ∧ i ≤ 6 then b.layer.getLsbD (i - 4)
      else if i = 8 then b.ie else false := by
  rw [← modeBit_eq]
  show BitVec.getLsbD (0#23 ++ BitVec.ofBool b.ie ++ 0#1 ++ b.layer ++ 0#3 ++ BitVec.ofBool (modeBit b.mode)) i = _
  simp only [BitVec.getLsbD_append, BitVec.getLsbD_ofBool, BitVec.getLsbD_zero, Nat.sub_sub]
  grind

theorem Block.getLsbD_statusWord (b : Block) (i : Nat) :
    b.statusWord.getLsbD i = if i = 0 then b.busy else if i = 1 then b.done else if i = 2 then b.errCmd
      else if i = 3 then b.errBusy else if 16 ≤ i ∧ i ≤ 23 then b.rlen.getLsbD (i - 16) else false := by
  show BitVec.getLsbD (0#8 ++ b.rlen ++ 0#12 ++ BitVec.ofBool b.errBusy ++ BitVec.ofBool b.errCmd
    ++ BitVec.ofBool b.done ++ BitVec.ofBool b.busy) i = _
  simp only [BitVec.getLsbD_append, BitVec.getLsbD_ofBool, BitVec.getLsbD_zero, Nat.sub_sub]
  grind

/-- Settles O19: the three reads are `Block.ctrlWord`, `Block.statusWord` and 0. -/
theorem controlRegistersRead : Obligations.ControlRegistersRead := by
  intro s hr
  refine ⟨fun i _ => ?_, fun i _ => ?_, ?_⟩
  · rw [busReadValue_register hr (k := 0x0008) (by decide) (by decide)]
    exact s.blk.getLsbD_ctrlWord i
  · rw [busReadValue_register hr (k := 0x0010) (by decide) (by decide)]
    exact s.blk.getLsbD_statusWord i
  · exact busReadValue_register hr (k := 0x000C) (by decide) (by decide)

/-! ### CFG0 and CFG1 (10_state R23, R24) -/

theorem dirBit_eq (p : Params) : p.dirBit = decide (p.dir = .colsDrive) := by
  unfold Params.dirBit; cases p.dir <;> rfl

theorem getLsbD_cfg0 (p : Params) (i : Nat) :
    (cfg0 p).getLsbD i =
      if i < 6 then (BitVec.ofNat 6 p.nRows).getLsbD i else if i < 8 then false
      else if i < 14 then (BitVec.ofNat 6 p.nCols).getLsbD (i - 8) else if i < 16 then false
      else if i = 16 then p.dirBit else if i < 20 then false
      else if i < 23 then (BitVec.ofNat 3 p.nLayers).getLsbD (i - 20) else false := by
  show BitVec.getLsbD (0#9 ++ BitVec.ofNat 3 p.nLayers ++ 0#3 ++ BitVec.ofBool p.dirBit ++ 0#2
    ++ BitVec.ofNat 6 p.nCols ++ 0#2 ++ BitVec.ofNat 6 p.nRows) i = _
  simp only [BitVec.getLsbD_append, BitVec.getLsbD_ofBool, BitVec.getLsbD_zero, Nat.sub_sub]
  grind

theorem getLsbD_cfg1 (p : Params) (i : Nat) :
    (cfg1 p).getLsbD i =
      if i < 11 then (BitVec.ofNat 11 p.numKeys).getLsbD i else if i < 16 then false
      else if i < 22 then (BitVec.ofNat 6 p.numWords).getLsbD (i - 16) else false := by
  show BitVec.getLsbD (0#10 ++ BitVec.ofNat 6 p.numWords ++ 0#5 ++ BitVec.ofNat 11 p.numKeys) i = _
  simp only [BitVec.getLsbD_append, BitVec.getLsbD_zero, Nat.sub_sub]
  grind

/-- The fields of CFG0, as packed. -/
theorem cfg0_fields (p : Params) :
    (cfg0 p).extractLsb' 0 6 = BitVec.ofNat 6 p.nRows ∧ (cfg0 p).extractLsb' 6 2 = 0
      ∧ (cfg0 p).extractLsb' 8 6 = BitVec.ofNat 6 p.nCols ∧ (cfg0 p).extractLsb' 14 2 = 0
      ∧ (cfg0 p).getLsbD 16 = p.dirBit ∧ (cfg0 p).extractLsb' 17 3 = 0
      ∧ (cfg0 p).extractLsb' 20 3 = BitVec.ofNat 3 p.nLayers ∧ (cfg0 p).extractLsb' 23 9 = 0 := by
  refine ⟨?_, ?_, ?_, ?_, getLsbD_cfg0 p 16, ?_, ?_, ?_⟩ <;>
    exact extractLsb'_eq_of_bits fun i hi => by rw [getLsbD_cfg0]; grind

/-- The fields of CFG1, as packed. -/
theorem cfg1_fields (p : Params) :
    (cfg1 p).extractLsb' 0 11 = BitVec.ofNat 11 p.numKeys ∧ (cfg1 p).extractLsb' 11 5 = 0
      ∧ (cfg1 p).extractLsb' 16 6 = BitVec.ofNat 6 p.numWords ∧ (cfg1 p).extractLsb' 22 10 = 0 := by
  refine ⟨?_, ?_, ?_, ?_⟩ <;> exact extractLsb'_eq_of_bits fun i hi => by rw [getLsbD_cfg1]; grind

/-- NW is the least number of words that hold K bits (00_scope R5). -/
theorem numWords_bounds (p : Params) (hK : 1 ≤ p.numKeys) :
    32 * (p.numWords - 1) < p.numKeys ∧ p.numKeys ≤ 32 * p.numWords := by
  unfold Params.numWords; omega

/-- Settles O18: every parameter fits its field on a legal elaboration. -/
theorem configRegisterFields : Obligations.ConfigRegisterFields := by
  intro p hl
  obtain ⟨hrows, hcols, -, hkeys, hlayers, -⟩ := p.legal_iff.1 hl
  have hK := p.numKeys_le hl
  have hNW := p.numWords_le hl
  obtain ⟨frows, f1, fcols, f2, fdir, f3, flayers, f4⟩ := cfg0_fields p
  obtain ⟨fkeys, f5, fwords, f6⟩ := cfg1_fields p
  have fits : ∀ {w n : Nat}, n < 2 ^ w → (BitVec.ofNat w n).toNat = n := fun h => by
    rw [BitVec.toNat_ofNat, Nat.mod_eq_of_lt h]
  refine ⟨?_, numWords_bounds p hkeys, ?_⟩
  · rw [frows, fcols, fdir, flayers, fkeys, fwords, dirBit_eq]
    exact ⟨fits (by omega), f1, fits (by omega), f2, rfl, f3, fits (by omega), f4, fits (by omega), f5,
      fits (by omega), f6⟩
  · rintro a s rfl hr
    exact ⟨fun ha => busReadValue_register hr ha (by decide), fun ha => busReadValue_register hr ha (by decide)⟩

/-! ### Reset (10_state R39) -/

/-- An access addresses a whole word (20_memory R54). -/
theorem wordOffset_mod_four (a : Addr) : wordOffset a % 4 = 0 := by
  rw [wordOffset, BitVec.toNat_and, show 4 = 2 ^ 2 from rfl, Nat.and_mod_two_pow]
  exact Nat.and_zero _

theorem bitmapWord_reset (p : Params) (w : Nat) : (Block.reset p).bitmapWord p w = 0 := by
  refine BitVec.eq_of_getLsbD_eq fun k hk => ?_
  rw [Block.getLsbD_bitmapWord _ _ _ hk, Block.key]
  simp [Block.reset]

@[simp] theorem reportByte_reset (p : Params) (j : Nat) : reportByte (Block.reset p).rb j = 0 := reportByte_zeros j

theorem reportWord_reset (p : Params) (m : Nat) : reportWord (Block.reset p).rb m = 0 := by
  simp only [reportWord, reportByte_reset]
  rfl

theorem statusWord_reset (p : Params) : (Block.reset p).statusWord = 0 := by
  simp only [Block.statusWord, Block.reset]
  rfl

/-- Every BITMAP and REPORT word reads 0 after reset. -/
theorem regWord_reset_data (p : Params) {o : Nat} (h4 : o % 4 = 0) (hlo : 0x0040 ≤ o) (hhi : o ≤ 0x00E0) :
    regWord p (Block.reset p) o = 0 := by
  rcases Nat.lt_or_ge o 0x00C0 with h | h
  · obtain ⟨w, rfl⟩ : ∃ w, o = 0x0040 + 4 * w := ⟨(o - 0x0040) / 4, by omega⟩
    rw [regWord_bitmap _ _ (by omega), bitmapWord_reset]
  · obtain ⟨m, rfl⟩ : ∃ m, o = 0x00C0 + 4 * m := ⟨(o - 0x00C0) / 4, by omega⟩
    rw [regWord_report _ _ (by omega), reportWord_reset]

/-- Settles O43: the reset block is idle, so every read returns its register. -/
theorem resetValues : Obligations.ResetValues := by
  intro p hl
  have hsettle : p.settleReset ≤ 65535 := (p.legal_iff.1 hl).2.2.2.2.2.2.1
  have hread : ∀ a : Addr, busReadValue a (State.resetWith p) = regWord p (Block.reset p) (wordOffset a) :=
    fun _ => busReadValue_idle rfl rfl
  refine ⟨?_, hread 0x004, ?_, ?_, (hread 0x010).trans (statusWord_reset p), fun a hlo hhi => ?_, rfl, rfl,
    reportByte_reset p, rfl, rfl, rfl⟩
  · rw [hread, ← dirBit_eq]; rfl
  · rw [hread]
    show (Block.reset p).ctrlWord = _
    cases hm : p.modeReset <;> simp [Block.ctrlWord, Block.reset, hm, modeBit]
  · rw [hread]
    show (BitVec.ofNat 16 p.settleReset).setWidth 32 = _
    refine BitVec.eq_of_toNat_eq ?_
    simp
    omega
  · rw [hread]
    exact regWord_reset_data p (wordOffset_mod_four a) hlo hhi

end Sys2Proof.Machine
end

section
/-! PROOFS. Register writes (10_state R26 to R32, 20_memory R56): what each one does, and which of them moves a flag
(10_state R38, 60_exceptions R151, R152). -/

namespace Sys2Proof.Machine

/-! ### A write through the open port, by its address -/

theorem Env.portOpen_of {e : Env} (hr : e.rst = false) (hc : e.clkOn = true) : e.portOpen = true := by
  simp [Env.portOpen, hr, hc]

/-- A write to any word but CMD is a register write (20_memory R56). -/
theorem busWrite_open {a k : Addr} (v : Word) {s : State} (ho : s.env.portOpen = true) (ha : a &&& 0x3FFC = k)
    (hk : k ≠ 0x000C) : busWrite a v s = .next (s.withBlk (s.blk.writeReg s.params k.toNat v)) := by
  have hoff : wordOffset a = k.toNat := (wordOffset_eq_iff a k).2 ha
  have hcmd : wordOffset a ≠ 0x000C := fun h => hk (ha ▸ (wordOffset_eq_iff a 0x000C).1 h)
  rw [busWrite, if_neg hcmd, if_pos ho, hoff]

/-- The write of a BITMAP word with w below NW (10_state R32). -/
theorem Block.writeReg_bitmap (p : Params) (b : Block) {w : Nat} (v : Word) (hw : w < p.numWords) (h32 : w < 32) :
    b.writeReg p (0x0040 + 4 * w) v = b.writeBitmap p w v := by
  have hin : inBitmap (0x0040 + 4 * w) = true := decide_eq_true (by omega)
  have hidx : bitmapIndex (0x0040 + 4 * w) = w := by unfold bitmapIndex; omega
  simp only [Block.writeReg, hin, hidx, hw, decide_true, Bool.and_true, if_true]
  rw [if_neg (by omega), if_neg (by omega), if_neg (by omega)]

/-- Settles O12: the register write at CTRL is `Block.writeCtrl`, by definition. -/
theorem ctrlWriteEffect : Obligations.CtrlWriteEffect := fun _ v _ ha hr hc =>
  busWrite_open v (Env.portOpen_of hr hc) ha (by decide)

/-- Settles O13: the write is `Block.clearFlags`, whose three masks are read off bit by bit. -/
theorem statusWriteClears : Obligations.StatusWriteClears := by
  intro a v s ha hr hc
  have hmask : ∀ flag bit : Bool, (flag && !bit) = if bit then false else flag := by decide
  rw [busWrite_open v (Env.portOpen_of hr hc) ha (by decide)]
  simp only [← hmask]
  rfl

/-! ### BITMAP words, bit by bit (10_state R31, R32) -/

theorem getLsbD_wordMask (w : Nat) {i : Nat} (hi : i < 1024) :
    (wordMask w).getLsbD i = decide (32 * w ≤ i ∧ i < 32 * w + 32) := by
  have hsub : i - 32 * w < 1024 := by omega
  rw [wordMask, BitVec.getLsbD_shiftLeft, BitVec.getLsbD_setWidth, BitVec.getLsbD_allOnes, Bool.eq_iff_iff]
  simp only [hi, hsub, decide_true, Bool.true_and, Bool.and_eq_true, Bool.not_eq_true', decide_eq_true_eq,
    decide_eq_false_iff_not]
  omega

/-- A written word replaces the bits of its word that lie below K. -/
theorem Block.getLsbD_putBitmapWord (p : Params) (b : Block) (w : Nat) (v : Word) {i : Nat} (hi : i < 1024) :
    (b.putBitmapWord p w v).bitmap.getLsbD i =
      if 32 * w ≤ i ∧ i < 32 * w + 32 then decide (i < p.numKeys) && v.getLsbD (i - 32 * w)
      else b.bitmap.getLsbD i := by
  simp only [Block.putBitmapWord_bitmap, BitVec.getLsbD_or, BitVec.getLsbD_and, BitVec.getLsbD_not,
    BitVec.getLsbD_shiftLeft, BitVec.getLsbD_setWidth, getLsbD_wordMask w hi, p.getLsbD_keyMask, hi]
  split_ifs with h
  · have h1 : ¬ i < 32 * w := by omega
    have h2 : i - 32 * w < 1024 := by omega
    simp [h, h1, h2, Bool.and_comm]
  · obtain hlow | hhigh : i < 32 * w ∨ 32 ≤ i - 32 * w := by omega
    · simp [h, hlow]
    · simp [h, BitVec.getLsbD_of_ge v _ hhigh]

/-- BM[32w + k] after a write of word w. -/
theorem Block.key_putBitmapWord (p : Params) (b : Block) {w k : Nat} (v : Word) (hw : w < 32) (hk : k < 32) :
    (b.putBitmapWord p w v).key p (32 * w + k) = (decide (32 * w + k < p.numKeys) && v.getLsbD k) := by
  rw [Block.key, b.getLsbD_putBitmapWord p w v (by omega), if_pos (by omega), Nat.add_sub_cancel_left,
    ← Bool.and_assoc, Bool.and_self]

/-- Settles O14: the write is `Block.writeSettle`, and SETTLE reads its COUNT back. -/
theorem settleWriteAndRead : Obligations.SettleWriteAndRead := by
  intro a v s ha hr hc
  have hcount : v.setWidth 16 = v.extractLsb' 0 16 := BitVec.setWidth_eq_extractLsb' (by decide)
  refine ⟨s.withBlk (s.blk.writeSettle v), busWrite_open v (Env.portOpen_of hr hc) ha (by decide), ?_, ?_⟩
  · rw [← hcount]; rfl
  · rw [← hcount]
    exact busReadValue_register (s := s.withBlk (s.blk.writeSettle v)) hr ha (by decide)

/-- Settles O15: the write is `Block.writeBitmap`, and while idle the word reads back. -/
theorem bitmapWriteEffect : Obligations.BitmapWriteEffect := by
  intro w a v s hl hw ha hr hc
  have h32 : w < 32 := lt_of_lt_of_le hw (s.params.numWords_le hl)
  have hcmd : a &&& 0x3FFC ≠ 0x000C := fun h => by
    rw [h] at ha
    have hoff : 0x000C = 0x0040 + 4 * w := ha
    omega
  have hwrite : busWrite a v s = .next (s.withBlk (s.blk.writeBitmap s.params w v)) := by
    rw [busWrite_open v (Env.portOpen_of hr hc) rfl hcmd, ha, s.blk.writeReg_bitmap s.params v hw h32]
  rw [hwrite, Block.writeBitmap]
  split_ifs with hbusy
  · rfl
  · have hidle : s.blk.busy = false := by simpa using hbusy
    refine ⟨_, rfl, fun i hi => s.blk.getLsbD_putBitmapWord s.params w v hi, fun k hk => ?_⟩
    exact (busReadValue_bitmap (s := s.withBlk (s.blk.putBitmapWord s.params w v)) hr hidle h32 ha hk).trans
      (s.blk.key_putBitmapWord s.params v h32 hk)

/-! ### What a write through the open port can do to the block -/

/-- The command word's opcode decides what the CMD write is (40_command R85, R88, R89). -/
theorem exec_decode_cases (v : Word) (s : State) :
    exec (decode v) s = .next s ∨ (opBits v ≠ 0x00 ∧ ∃ op, exec (decode v) s = startCommand op s)
      ∨ (0x04 ≤ opBits v ∧ exec (decode v) s = reservedCommand s) := by
  rw [decode_eq]
  generalize opBits v = op
  have hrow : op = 0x00 ∨ op = 0x01 ∨ op = 0x02 ∨ op = 0x03 ∨ 0x04 ≤ op := by bv_omega
  obtain rfl | rfl | rfl | rfl | hres := hrow
  · exact .inl rfl
  · exact .inr (.inl ⟨by decide, .scan, rfl⟩)
  · exact .inr (.inl ⟨by decide, .encode, rfl⟩)
  · exact .inr (.inl ⟨by decide, .scanEncode, rfl⟩)
  · refine .inr (.inr ⟨hres, ?_⟩)
    have hself : op &&& 0xFF = op := BitVec.and_allOnes
    have h0 : op ≠ 0x00 := by bv_omega
    have h1 : op ≠ 0x01 := by bv_omega
    have h2 : op ≠ 0x02 := by bv_omega
    have h3 : op ≠ 0x03 := by bv_omega
    simp only [decodeByOp, hself, h0, h1, h2, h3, if_false]
    split_ifs <;> rfl

/-- Everything a bus write of v at a can do to the block: `BlockMove` with the address and the word that cause each
move. -/
inductive WriteMove (p : Params) (b : Block) (a : Addr) (v : Word) : Block → Prop where
  /-- nothing -/
  | stay : WriteMove p b a v b
  /-- a command accepted (R86) -/
  | accept (op : Op) : WriteMove p b a v (b.accept op)
  /-- a reserved opcode, the block being idle (R151) -/
  | errCmd (idle : b.busy = false) (cmd : a &&& 0x3FFC = 0x000C) (reserved : 0x04 ≤ opBits v) :
    WriteMove p b a v b.raiseErrCmd
  /-- a command word other than NOP, the block being busy (R152) -/
  | busyCmd (running : b.busy = true) (cmd : a &&& 0x3FFC = 0x000C) (notNop : opBits v ≠ 0x00) :
    WriteMove p b a v b.raiseErrBusy
  /-- a BITMAP write, the block being busy (R152) -/
  | busyBitmap (running : b.busy = true) (window : inBitmap (wordOffset a) = true)
    (inside : bitmapIndex (wordOffset a) < p.numWords) : WriteMove p b a v b.raiseErrBusy
  /-- CTRL write (R26) -/
  | ctrl : WriteMove p b a v (b.writeCtrl p v)
  /-- STATUS write (R29) -/
  | status (addr : a &&& 0x3FFC = 0x0010) : WriteMove p b a v (b.clearFlags v)
  /-- SETTLE write (R27) -/
  | settle : WriteMove p b a v (b.writeSettle v)
  /-- BITMAP write, the block being idle (R32) -/
  | bitmap (w : Nat) : WriteMove p b a v (b.putBitmapWord p w v)

theorem exec_writeMove {a : Addr} {v : Word} {s t : State} (ha : a &&& 0x3FFC = 0x000C)
    (h : exec (decode v) s = .next t) : WriteMove s.params s.blk a v t.blk := by
  obtain hx | ⟨hop, op, hx⟩ | ⟨hop, hx⟩ := exec_decode_cases v s <;> rw [hx] at h
  · cases h; exact .stay
  · unfold startCommand at h
    split_ifs at h with hopen hbusy <;> cases h
    · exact .busyCmd hbusy ha hop
    · exact .accept op
    · exact .stay
  · unfold reservedCommand at h
    split_ifs at h with hopen hbusy <;> cases h
    · exact .busyCmd hbusy ha (by bv_omega)
    · exact .errCmd (by simpa using hbusy) ha hop
    · exact .stay

theorem Block.writeReg_writeMove (p : Params) (b : Block) (a : Addr) (v : Word) :
    WriteMove p b a v (b.writeReg p (wordOffset a) v) := by
  unfold Block.writeReg
  split_ifs with hctrl hstatus hsettle hbitmap
  · exact .ctrl
  · exact .status ((wordOffset_eq_iff a 0x0010).1 hstatus)
  · exact .settle
  · rw [Bool.and_eq_true, decide_eq_true_eq] at hbitmap
    unfold Block.writeBitmap
    split_ifs with hbusy
    · exact .busyBitmap hbusy hbitmap.1 hbitmap.2
    · exact .bitmap _
  · exact .stay

/-- A bus write makes one of these moves. -/
theorem busWrite_writeMove {a : Addr} {v : Word} {s t : State} (h : busWrite a v s = .next t) :
    WriteMove s.params s.blk a v t.blk := by
  unfold busWrite at h
  split_ifs at h with hcmd
  · exact exec_writeMove ((wordOffset_eq_iff a 0x000C).1 hcmd) h
  · cases h; exact s.blk.writeReg_writeMove s.params a v
  · cases h; exact .stay

section
variable {p : Params} {b c : Block} {a : Addr} {v : Word} (h : WriteMove p b a v c)
include h

/-- DONE falls by a STATUS write of bit 1 alone (10_state R29, R38). -/
theorem WriteMove.done_falls (hset : b.done = true) (hfell : c.done = false) :
    a &&& 0x3FFC = 0x0010 ∧ v.getLsbD 1 = true := by
  cases h with
  | status addr => exact ⟨addr, by simpa [hset] using hfell⟩
  | accept op =>
    obtain ⟨-, -, -, -, hdone, -⟩ := b.accept_keeps op
    rw [hdone, hset] at hfell
    cases hfell
  | stay | errCmd | busyCmd | busyBitmap | ctrl | settle | bitmap => simp [hset] at hfell

/-- ERR_CMD rises by a CMD write of a reserved opcode to an idle block alone (60_exceptions R151). -/
theorem WriteMove.errCmd_rises (hclear : b.errCmd = false) (hrose : c.errCmd = true) :
    b.busy = false ∧ a &&& 0x3FFC = 0x000C ∧ 0x04 ≤ opBits v := by
  cases h with
  | errCmd idle cmd reserved => exact ⟨idle, cmd, reserved⟩
  | accept op =>
    obtain ⟨-, -, -, -, -, herr, -⟩ := b.accept_keeps op
    rw [herr, hclear] at hrose
    cases hrose
  | stay | status | busyCmd | busyBitmap | ctrl | settle | bitmap => simp [hclear] at hrose

/-- ERR_BUSY rises by a CMD write that is not a NOP or a BITMAP write to a busy block alone (60_exceptions R152). -/
theorem WriteMove.errBusy_rises (hclear : b.errBusy = false) (hrose : c.errBusy = true) :
    b.busy = true ∧ (a &&& 0x3FFC = 0x000C ∧ opBits v ≠ 0x00
      ∨ inBitmap (wordOffset a) = true ∧ bitmapIndex (wordOffset a) < p.numWords) := by
  cases h with
  | busyCmd running cmd notNop => exact ⟨running, .inl ⟨cmd, notNop⟩⟩
  | busyBitmap running window inside => exact ⟨running, .inr ⟨window, inside⟩⟩
  | accept op =>
    obtain ⟨-, -, -, -, -, -, herr, -⟩ := b.accept_keeps op
    rw [herr, hclear] at hrose
    cases hrose
  | stay | status | errCmd | ctrl | settle | bitmap => simp [hclear] at hrose

end

/-- Out of reset, a step leaves the block, resets it, makes a sequencer step, or makes the host's bus write. -/
theorem step_blk_cases {s t : State} (hr : s.env.rst = false) (h : step s = .next t) :
    t.blk = s.blk ∨ (s.nextTurn = some .assertRst ∧ t.blk = Block.reset s.params)
      ∨ (∃ lv, t.blk = s.blk.seqStep s.params lv)
      ∨ ∃ a v, s.nextTurn = some .host ∧ s.env.host.current = some (.wr a v)
        ∧ WriteMove s.params s.blk a v t.blk := by
  obtain h | h | ⟨-, -, h⟩ | ⟨a, v, hturn, hline, -, h⟩ := step_cases hr h
  · exact .inl h
  · exact .inr (.inl h)
  · exact .inr (.inr (.inl h))
  · exact .inr (.inr (.inr ⟨a, v, hturn, hline, by simpa using busWrite_writeMove h⟩))

/-- Settles O55: of all a step can do, only reset and a STATUS write lower DONE. -/
theorem doneIsSticky : Obligations.DoneIsSticky := by
  intro s t hr hset h hfell
  obtain hb | ⟨hturn, -⟩ | ⟨lv, hb⟩ | ⟨a, v, hturn, hline, hmove⟩ := step_blk_cases hr h
  · rw [hb, hset] at hfell; cases hfell
  · exact .inl hturn
  · rw [hb, (s.blk.seqStep_flags s.params lv).2.2 hset] at hfell; cases hfell
  · exact .inr ⟨hturn, a, v, hline, hmove.done_falls hset hfell⟩

/-- Settles O56: neither reset nor a sequencer step raises an error flag, and of the host's writes only those named. -/
theorem errorFlagsRaisedOnlyByHost : Obligations.ErrorFlagsRaisedOnlyByHost := by
  intro s t hr h
  obtain hb | ⟨-, hb⟩ | ⟨lv, hb⟩ | ⟨a, v, hturn, hline, hmove⟩ := step_blk_cases hr h
  · rw [hb]
    exact ⟨fun h0 h1 => absurd (h0 ▸ h1) (by decide), fun h0 h1 => absurd (h0 ▸ h1) (by decide)⟩
  · rw [hb]
    exact ⟨fun _ => nofun, fun _ => nofun⟩
  · obtain ⟨hcmd, hbusy, -⟩ := s.blk.seqStep_flags s.params lv
    rw [hb, hcmd, hbusy]
    exact ⟨fun h0 h1 => absurd (h0 ▸ h1) (by decide), fun h0 h1 => absurd (h0 ▸ h1) (by decide)⟩
  · constructor
    · intro h0 h1
      obtain ⟨idle, cause⟩ := hmove.errCmd_rises h0 h1
      exact ⟨hturn, idle, a, v, hline, cause⟩
    · intro h0 h1
      obtain ⟨running, cause⟩ := hmove.errBusy_rises h0 h1
      refine ⟨hturn, running, a, v, hline, cause.imp_right fun ⟨window, inside⟩ => ?_⟩
      rw [inBitmap, decide_eq_true_eq] at window
      exact ⟨window.1, window.2, inside⟩

end Sys2Proof.Machine
end

section
/-! PROOFS. The bus port (20_memory): which address bits count (R54), what a write elsewhere or a second write does
(R56, R57), and the read table (R55). -/

namespace Sys2Proof.Machine

/-! ### Address bits 1:0 (20_memory R54) -/

/-- Masking an address twice is masking it once (20_memory R54). -/
theorem wordOffset_masked (a : Addr) : wordOffset (a &&& 0x3FFC) = wordOffset a := by
  rw [wordOffset, BitVec.and_assoc, BitVec.and_self, wordOffset]

/-- Settles O22: both transactions see an address through `wordOffset` alone. -/
theorem addressLowBitsIgnored : Obligations.AddressLowBitsIgnored := by
  intro a v s
  simp only [busReadValue, busReadState, busWrite, wordOffset_masked, true_and]
  exact fun _ => rfl

/-! ### The windows of the address map (20_memory R52) -/

theorem inBitmap_iff (o : Nat) : inBitmap o = true ↔ 0x0040 ≤ o ∧ o ≤ 0x00BC := decide_eq_true_iff

theorem inReport_iff (o : Nat) : inReport o = true ↔ 0x00C0 ≤ o ∧ o ≤ 0x00E0 := decide_eq_true_iff

theorem inKeymap_iff (o : Nat) : inKeymap o = true ↔ 0x1000 ≤ o ∧ o ≤ 0x23FC := decide_eq_true_iff

/-! ### Writes elsewhere (20_memory R56) -/

/-- A place that is no writable register, and no BITMAP word below NW, ignores the write (20_memory R56). -/
theorem Block.writeReg_elsewhere (p : Params) (b : Block) {o : Nat} (v : Word) (hctrl : o ≠ 0x0008)
    (hstatus : o ≠ 0x0010) (hsettle : o ≠ 0x0014)
    (hbitmap : ¬ (inBitmap o = true ∧ bitmapIndex o < p.numWords)) : b.writeReg p o v = b := by
  rw [Block.writeReg, if_neg hctrl, if_neg hstatus, if_neg hsettle, if_neg (by simpa using hbitmap)]

/-- A write to any word but CMD that meets a closed port has no effect (70_reset_and_hazards R172). -/
theorem busWrite_closed {a : Addr} (v : Word) {s : State} (ho : s.env.portOpen = false) (ha : a &&& 0x3FFC ≠ 0x000C) :
    busWrite a v s = .next s := by
  have hcmd : wordOffset a ≠ 0x000C := fun h => ha ((wordOffset_eq_iff a 0x000C).1 h)
  rw [busWrite, if_neg hcmd, ho, if_neg Bool.false_ne_true]

/-- Settles O16: the register write leaves the block, so the bus write leaves the state. -/
theorem otherWritesIgnored : Obligations.OtherWritesIgnored := by
  intro a v s hctrl hcmd hstatus hsettle hbitmap
  have hkeep : s.blk.writeReg s.params (wordOffset a) v = s.blk :=
    s.blk.writeReg_elsewhere s.params v (fun h => hctrl ((wordOffset_eq_iff a 0x0008).1 h))
      (fun h => hstatus ((wordOffset_eq_iff a 0x0010).1 h)) (fun h => hsettle ((wordOffset_eq_iff a 0x0014).1 h))
      fun ⟨hin, hw⟩ => hbitmap (and_assoc.1 ⟨(inBitmap_iff _).1 hin, hw⟩)
  cases ho : s.env.portOpen with
  | false => exact busWrite_closed v ho hcmd
  | true =>
    rw [busWrite_open v ho rfl hcmd]
    exact congrArg (fun b => Host.Outcome.next (s.withBlk b)) hkeep

/-! ### Idempotent writes (20_memory R57) -/

theorem Block.writeCtrl_writeCtrl (p : Params) (b : Block) (v : Word) :
    (b.writeCtrl p v).writeCtrl p v = b.writeCtrl p v := by
  simp only [Block.writeCtrl]
  split_ifs <;> rfl

theorem Block.clearFlags_clearFlags (b : Block) (v : Word) : (b.clearFlags v).clearFlags v = b.clearFlags v := by
  simp only [Block.clearFlags, Bool.and_assoc, Bool.and_self]

theorem Block.putBitmapWord_putBitmapWord (p : Params) (b : Block) (w : Nat) (v : Word) :
    (b.putBitmapWord p w v).putBitmapWord p w v = b.putBitmapWord p w v := by
  have hbits : ((b.putBitmapWord p w v).putBitmapWord p w v).bitmap = (b.putBitmapWord p w v).bitmap :=
    BitVec.eq_of_getLsbD_eq fun i hi => by
      rw [Block.getLsbD_putBitmapWord _ _ _ _ hi, Block.getLsbD_putBitmapWord _ _ _ _ hi]
      split_ifs <;> rfl
  exact congrArg (fun m => { b with bitmap := m }) hbits

/-- A dropped BITMAP write leaves the block busy, an accepted one leaves it idle (10_state R32). -/
theorem Block.writeBitmap_writeBitmap (p : Params) (b : Block) (w : Nat) (v : Word) :
    (b.writeBitmap p w v).writeBitmap p w v = b.writeBitmap p w v := by
  by_cases hb : b.busy = true
  · rw [show b.writeBitmap p w v = b.raiseErrBusy from if_pos hb]
    exact if_pos hb
  · rw [show b.writeBitmap p w v = b.putBitmapWord p w v from if_neg hb]
    exact (if_neg hb).trans (b.putBitmapWord_putBitmapWord p w v)

/-- A register write made twice is the write made once (20_memory R57). -/
theorem Block.writeReg_writeReg (p : Params) (b : Block) (o : Nat) (v : Word) :
    (b.writeReg p o v).writeReg p o v = b.writeReg p o v := by
  unfold Block.writeReg
  split_ifs
  · exact b.writeCtrl_writeCtrl p v
  · exact b.clearFlags_clearFlags v
  · rfl
  · exact b.writeBitmap_writeBitmap p _ v
  · rfl

/-- Settles O17: a write changes neither the port nor the parameters, and the register write is idempotent. -/
theorem writesIdempotent : Obligations.WritesIdempotent := by
  intro a v s t ha h
  cases ho : s.env.portOpen with
  | false =>
    cases (busWrite_closed v ho ha).symm.trans h
    exact h
  | true =>
    cases (busWrite_open v ho rfl ha).symm.trans h
    rw [busWrite_open v (by exact ho) rfl ha, State.withBlk_blk, State.withBlk_params, Block.writeReg_writeReg]
    rfl

/-! ### The read table (20_memory R55) -/

/-- CTRL's word, its reserved high bits left out (10_state R25). -/
theorem Block.ctrlWord_eq (b : Block) : b.ctrlWord =
    (BitVec.ofBool b.ie ++ 0#1 ++ b.layer ++ 0#3 ++ BitVec.ofBool (decide (b.mode = .nkro))).setWidth 32 := by
  refine BitVec.eq_of_getLsbD_eq fun i hi => ?_
  rw [b.getLsbD_ctrlWord, BitVec.getLsbD_setWidth]
  simp only [BitVec.getLsbD_append, BitVec.getLsbD_ofBool, BitVec.getLsbD_zero, Nat.sub_sub]
  grind

/-- STATUS's word, its reserved high bits left out (10_state R28). -/
theorem Block.statusWord_eq (b : Block) : b.statusWord =
    (b.rlen ++ 0#12 ++ BitVec.ofBool b.errBusy ++ BitVec.ofBool b.errCmd ++ BitVec.ofBool b.done
      ++ BitVec.ofBool b.busy).setWidth 32 := by
  refine BitVec.eq_of_getLsbD_eq fun i hi => ?_
  rw [b.getLsbD_statusWord, BitVec.getLsbD_setWidth]
  simp only [BitVec.getLsbD_append, BitVec.getLsbD_ofBool, BitVec.getLsbD_zero, Nat.sub_sub]
  grind

/-- A BITMAP word below NW or a REPORT word reads the next free value while busy (20_memory R55, R59). -/
theorem busReadValue_busy {a : Addr} {s : State} (hb : s.blk.busy = true)
    (hdata : inBitmap (wordOffset a) = true ∧ bitmapIndex (wordOffset a) < s.params.numWords
      ∨ inReport (wordOffset a) = true) : busReadValue a s = Config.anyRead s.env.draws := by
  have hfree : s.readsFree (wordOffset a) = true := by simpa [State.readsFree, hb] using .inr hdata
  rw [busReadValue, if_pos hfree]

/-- Settles O23: the rows of R55 in its order, each by what a read returns there. -/
theorem readsChangeNothingAndAreExact : Obligations.ReadsChangeNothingAndAreExact := by
  intro a s hr
  refine ⟨busReadState_blk a s, busReadState_params a s, ?_⟩
  have hreg : ∀ k : Addr, k.toNat < 0x0040 → wordOffset a = k.toNat →
      busReadValue a s = regWord s.params s.blk k.toNat :=
    fun k hk h => busReadValue_register hr ((wordOffset_eq_iff a k).1 h) hk
  have hindex : ∀ o, (o - 0x0040) / 4 = bitmapIndex o := fun _ => rfl
  have hwindow : 0x0040 ≤ wordOffset a → _ := regWord_of_ge s.params s.blk
  rw [← Block.ctrlWord_eq, ← Block.statusWord_eq, show (a &&& 0x3FFC).toNat = wordOffset a from rfl]
  simp only [hindex, ← inBitmap_iff, ← inReport_iff, ← inKeymap_iff]
  split_ifs with h0 h1 h2 h3 h4 h5 hbitmap hunused hbusy hreport hbusy hkeymap
  · exact hreg 0x0000 (by decide) h0
  · exact hreg 0x0004 (by decide) h1
  · exact hreg 0x0008 (by decide) h2
  · exact hreg 0x000C (by decide) h3
  · exact hreg 0x0010 (by decide) h4
  · exact hreg 0x0014 (by decide) h5
  · have hrange := (inBitmap_iff _).1 hbitmap
    have hout : inReport (wordOffset a) = false := decide_eq_false (by omega)
    rw [busReadValue_of_not_free (by simp [State.readsFree, hr, hout, hunused]), hwindow hrange.1, if_pos hbitmap,
      if_neg (Nat.not_lt_of_le hunused)]
  · exact busReadValue_busy hbusy (.inl ⟨hbitmap, Nat.lt_of_not_le hunused⟩)
  · rw [busReadValue_idle hr (eq_false_of_ne_true hbusy), hwindow ((inBitmap_iff _).1 hbitmap).1, if_pos hbitmap,
      if_pos (Nat.lt_of_not_le hunused)]
    rfl
  · exact busReadValue_busy hbusy (.inr hreport)
  · have hrange := (inReport_iff _).1 hreport
    rw [busReadValue_idle hr (eq_false_of_ne_true hbusy), hwindow (by omega), if_neg hbitmap, if_pos hreport]
    rfl
  · have hrange := (inKeymap_iff _).1 hkeymap
    rw [busReadValue_outside hr (eq_false_of_ne_true hbitmap) (eq_false_of_ne_true hreport), hwindow (by omega),
      if_neg hbitmap, if_neg hreport, if_pos hkeymap]
    rfl
  · rw [busReadValue_outside hr (eq_false_of_ne_true hbitmap) (eq_false_of_ne_true hreport)]
    simp only [regWord, h0, h1, h2, h3, h4, h5, hbitmap, hreport, hkeymap, if_false, Bool.false_eq_true]

end Sys2Proof.Machine
end

section
/-! PROOFS. Weak fairness (20_memory R60, 70_reset_and_hazards R183): the turns ahead of a sequencer that can move fall
with every step that is not its own. -/

namespace Sys2Proof.Machine

/-- At most how many turns come before the sequencer's next one: the supplied ones, then those the free choice gives
the host (log 5). -/
def Env.turnsAhead (e : Env) : Nat := e.turns.length + (Config.hostTurns e.picks - e.waited)

/-- A turn used up that is not the sequencer's brings the sequencer's turn nearer. -/
theorem State.useTurn_turnsAhead {s : State} (he : s.sequencerEnabled = true) (hm : s.sequencerMoves = false) :
    s.useTurn.env.turnsAhead + 1 = s.env.turnsAhead := by
  have hturn : s.nextTurn ≠ some .sequencer := by simpa [State.sequencerMoves, he] using hm
  cases ht : s.env.turns with
  | cons u rest =>
    rw [(State.nextTurn_cons ht).2]
    simp only [Env.turnsAhead, ht, List.length_cons]
    omega
  | nil =>
    rw [State.nextTurn_nil ht, he] at hturn
    rw [State.useTurn_nil ht, he]
    cases hh : s.hostEnabled with
    | false => exact absurd (by rw [hh]) hturn
    | true =>
      cases hf : s.env.hostFirst with
      | false => simp [hh, hf] at hturn
      | true =>
        obtain ⟨hpicks, hnearer⟩ := Env.contended_host_turn hf
        simp only [Env.turnsAhead, Env.contended_turns, ht, Bool.and_self, if_true]
        omega

/-- Where the sequencer can move, someone's turn comes. -/
theorem State.nextTurn_ne_none {s : State} (he : s.sequencerEnabled = true) : s.nextTurn ≠ none := by
  cases ht : s.env.turns with
  | cons u rest => simp [(State.nextTurn_cons ht).1]
  | nil =>
    rw [State.nextTurn_nil ht, he]
    cases s.hostEnabled <;> simp

/-- A step where the sequencer can move and does not brings its turn nearer. -/
theorem step_turnsAhead {s t : State} (h : step s = .next t) (he : s.sequencerEnabled = true)
    (hm : s.sequencerMoves = false) : t.env.turnsAhead + 1 = s.env.turnsAhead := by
  have hr : s.env.rst = false := by
    simp only [State.sequencerEnabled, Bool.and_eq_true, Bool.not_eq_true'] at he
    exact he.1.2
  obtain ⟨hnone, -⟩ | ⟨u, -, hu⟩ := step_out_of_reset hr h
  · exact absurd hnone (State.nextTurn_ne_none he)
  · obtain ⟨hturns, hpicks, hwaited⟩ := takeTurn_schedule hu
    rw [← State.useTurn_turnsAhead he hm, Env.turnsAhead, Env.turnsAhead, hturns, hpicks, hwaited]

/-- A sequencer that can move for ever from step k on moves: the turns ahead of it cannot fall for ever. -/
theorem sequencer_moves_of_enabled {r : Nat → State} (hrun : IsRun r) (k : Nat)
    (he : ∀ j, k ≤ j → (r j).sequencerEnabled = true) : ∃ j, k ≤ j ∧ (r j).sequencerMoves = true := by
  induction hn : (r k).env.turnsAhead using Nat.strong_induction_on generalizing k with
  | _ n ih =>
    cases hm : (r k).sequencerMoves with
    | true => exact ⟨k, le_rfl, hm⟩
    | false =>
      have hfall := step_turnsAhead (hrun k) (he k le_rfl) hm
      obtain ⟨j, hj, hmoves⟩ := ih _ (by omega) (k + 1) (fun j hj => he j (by omega)) rfl
      exact ⟨j, by omega, hmoves⟩

/-- Settles O58: the turns ahead of a sequencer that can move are finitely many. -/
theorem everyRunIsWeaklyFair : Obligations.EveryRunIsWeaklyFair := fun _ => sequencer_moves_of_enabled

end Sys2Proof.Machine
end

section
/-! PROOFS. The encoding (30_encoding): decoding and encoding are inverse (R70, R72), the ignored bits never matter
(R74), and what the host's lines do on its turn (R75). -/

namespace Sys2Proof

/-! ### The rows of the opcode map, as ranges (30_encoding R72) -/

/-- The mask of the bits from k on keeps those bits where they are. -/
theorem and_highMask (op : Byte) (k : Nat) : op &&& 0xFF#8 <<< k = (op >>> k) <<< k := by
  refine BitVec.eq_of_getLsbD_eq fun i hi => ?_
  have hmask : (0xFF#8).getLsbD (i - k) = true := by
    rw [show 0xFF#8 = BitVec.allOnes 8 from rfl, BitVec.getLsbD_allOnes]
    exact decide_eq_true (by omega)
  simp only [BitVec.getLsbD_and, BitVec.getLsbD_shiftLeft, BitVec.getLsbD_ushiftRight, hi, hmask, decide_true,
    Bool.true_and, Bool.and_true]
  by_cases h : i < k
  · simp [h]
  · simp [h, show k + (i - k) = i by omega]

/-- A row's test, bit k set and none above it, is the range of opcodes from 2^k to below 2^(k+1). -/
theorem and_highMask_eq_iff (op : Byte) {k : Nat} (hk : k < 8) :
    op &&& 0xFF#8 <<< k = 1#8 <<< k ↔ 2 ^ k ≤ op.toNat ∧ op.toNat < 2 ^ (k + 1) := by
  have hop := op.isLt
  have hpos : 0 < 2 ^ k := Nat.two_pow_pos k
  have hpow : 2 ^ k < 2 ^ 8 := Nat.pow_lt_pow_right (by omega) hk
  have hle : op.toNat / 2 ^ k * 2 ^ k ≤ op.toNat := Nat.div_mul_le_self _ _
  have hone : op.toNat / 2 ^ k * 2 ^ k = 2 ^ k ↔ op.toNat / 2 ^ k = 1 := Nat.mul_eq_right hpos.ne'
  rw [and_highMask, ← BitVec.toNat_inj]
  simp only [BitVec.toNat_shiftLeft, BitVec.toNat_ushiftRight, Nat.shiftLeft_eq, Nat.shiftRight_eq_div_pow]
  rw [Nat.mod_eq_of_lt (by omega), show (1#8).toNat * 2 ^ k % 2 ^ 8 = 2 ^ k from by simp; omega, hone,
    Nat.div_eq_iff hpos, pow_succ]
  omega

/-- The tests of the reserved rows but the last, as ranges of opcodes (R72). -/
theorem reservedRow_iff (op : Byte) :
    (op &&& 0xFC = 0x04 ↔ 0x04 ≤ op.toNat ∧ op.toNat < 0x08)
      ∧ (op &&& 0xF8 = 0x08 ↔ 0x08 ≤ op.toNat ∧ op.toNat < 0x10)
      ∧ (op &&& 0xF0 = 0x10 ↔ 0x10 ≤ op.toNat ∧ op.toNat < 0x20)
      ∧ (op &&& 0xE0 = 0x20 ↔ 0x20 ≤ op.toNat ∧ op.toNat < 0x40)
      ∧ (op &&& 0xC0 = 0x40 ↔ 0x40 ≤ op.toNat ∧ op.toNat < 0x80) :=
  ⟨and_highMask_eq_iff op (k := 2) (by decide), and_highMask_eq_iff op (k := 3) (by decide),
    and_highMask_eq_iff op (k := 4) (by decide), and_highMask_eq_iff op (k := 5) (by decide),
    and_highMask_eq_iff op (k := 6) (by decide)⟩

/-- The row of an opcode, by the ranges of the table (R72). -/
theorem decodeByOp_eq (op : Byte) (ign : BitVec 24) : decodeByOp op ign =
    if op.toNat = 0x00 then .nop ign else if op.toNat = 0x01 then .scan ign
    else if op.toNat = 0x02 then .encode ign else if op.toNat = 0x03 then .scanEncode ign
    else if 0x04 ≤ op.toNat ∧ op.toNat < 0x08 then .reserved0407 op ign
    else if 0x08 ≤ op.toNat ∧ op.toNat < 0x10 then .reserved080F op ign
    else if 0x10 ≤ op.toNat ∧ op.toNat < 0x20 then .reserved101F op ign
    else if 0x20 ≤ op.toNat ∧ op.toNat < 0x40 then .reserved203F op ign
    else if 0x40 ≤ op.toNat ∧ op.toNat < 0x80 then .reserved407F op ign
    else .reserved80FF op ign := by
  have hself : op &&& 0xFF = op := BitVec.and_allOnes
  simp only [decodeByOp, reservedRow_iff, hself]
  simp only [← BitVec.toNat_inj]
  rfl

/-! ### Decoding and encoding (30_encoding R70, R72) -/

/-- A well-formed instruction is the row of its own opcode. -/
theorem decodeByOp_fields (i : Instr) (h : i.wellFormed = true) : decodeByOp i.opField i.ignField = i := by
  cases i with
  | nop ign | scan ign | encode ign | scanEncode ign =>
    rw [Instr.opField, Instr.ignField]
    rfl
  | reserved0407 op ign | reserved080F op ign | reserved101F op ign | reserved203F op ign | reserved407F op ign
  | reserved80FF op ign =>
    have hrange := of_decide_eq_true h
    simp only [BitVec.le_def, BitVec.ofNat_eq_ofNat, BitVec.toNat_ofNat] at hrange
    simp (disch := omega) only [Instr.opField, Instr.ignField, decodeByOp_eq, if_pos, if_neg]

theorem decode_encode (i : Instr) (h : i.wellFormed = true) : decode (encode i) = i := by
  rw [decode_eq, encode, opBits_commandWord, ignBits_commandWord, decodeByOp_fields i h]

/-- Settles O2: the command word keeps both fields, and the opcode's row is the instruction's own. -/
theorem decodeOfEncode : Obligations.DecodeOfEncode := decode_encode

/-- An opcode's row is well-formed and keeps both fields. -/
theorem decodeByOp_row (op : Byte) (ign : BitVec 24) :
    (decodeByOp op ign).wellFormed = true ∧ (decodeByOp op ign).opField = op ∧ (decodeByOp op ign).ignField = ign := by
  have hop := op.isLt
  rw [decodeByOp_eq]
  split_ifs with h0 h1 h2 h3
  · exact ⟨rfl, BitVec.eq_of_toNat_eq h0.symm, rfl⟩
  · exact ⟨rfl, BitVec.eq_of_toNat_eq h1.symm, rfl⟩
  · exact ⟨rfl, BitVec.eq_of_toNat_eq h2.symm, rfl⟩
  · exact ⟨rfl, BitVec.eq_of_toNat_eq h3.symm, rfl⟩
  all_goals
    refine ⟨decide_eq_true ?_, rfl, rfl⟩
    simp only [BitVec.le_def, BitVec.ofNat_eq_ofNat, BitVec.toNat_ofNat]
    omega

/-- Every word decodes to a well-formed instruction with the word's two fields (30_encoding R70, R72). -/
theorem decode_row (w : Word) :
    (decode w).wellFormed = true ∧ (decode w).opField = opBits w ∧ (decode w).ignField = ignBits w :=
  decode_eq w ▸ decodeByOp_row (opBits w) (ignBits w)

theorem encode_decode (w : Word) : encode (decode w) = w := by
  obtain ⟨-, hop, hign⟩ := decode_row w
  rw [encode, hop, hign, commandWord_fields]

/-- The opcodes from 0x04 on are the reserved rows' (30_encoding R73). -/
theorem Instr.isReserved_of_opField {i : Instr} (h : 0x04 ≤ i.opField) : i.isReserved = true := by
  cases i with
  | nop | scan | encode | scanEncode => exact absurd h (by rw [Instr.opField]; decide)
  | reserved0407 | reserved080F | reserved101F | reserved203F | reserved407F | reserved80FF => rfl

/-- Settles O3: the four fixed rows by computation, the rest from what every decoded word satisfies. -/
theorem everyWordIsOneRow : Obligations.EveryWordIsOneRow := by
  intro w
  have hrow : ∀ op, opBits w = op → decode w = decodeByOp op (ignBits w) := fun op h => h ▸ decode_eq w
  obtain ⟨hwf, hop, -⟩ := decode_row w
  exact ⟨hrow 0x00, hrow 0x01, hrow 0x02, hrow 0x03, fun h => Instr.isReserved_of_opField (hop.symm ▸ h), hwf,
    encode_decode w⟩

/-- Settles O1, by evaluating `decode` on each word. -/
theorem decodeSpecWords : Obligations.DecodeSpecWords := by
  unfold Obligations.DecodeSpecWords
  decide

end Sys2Proof

namespace Sys2Proof.Machine

/-! ### The ignored bits (30_encoding R74) -/

/-- Execution never looks at IGN. -/
theorem exec_decodeByOp_ign (op : Byte) (ign ign' : BitVec 24) (s : State) :
    exec (decodeByOp op ign) s = exec (decodeByOp op ign') s := by
  simp only [decodeByOp, apply_ite (exec · s)]
  rfl

/-- Settles O4: words that agree in OP decode to the row of the same opcode, whose execution drops IGN. -/
theorem ignoredBitsNeverMatter : Obligations.IgnoredBitsNeverMatter := by
  refine ⟨fun v w (hop : opBits v = opBits w) => ?_, by decide, by decide⟩
  obtain ⟨-, hv, -⟩ := decode_row v
  obtain ⟨-, hw, -⟩ := decode_row w
  refine ⟨by rw [hv, hw, hop], fun s => ?_⟩
  rw [decode_eq v, decode_eq w, hop]
  exact exec_decodeByOp_ign _ _ _ s

/-! ### The host's turn (30_encoding R75) -/

/-- A line that can run is performed, the host having gone on to the next. -/
theorem hostStep_of_current {line : HostLine} {s : State} (hline : s.env.host.current = some line)
    (hopen : (!line.isBus || s.env.portOpen) = true) : hostStep s = runLine line s.advance := by
  simp only [hostStep, hline, hopen, if_true]

/-- Out of reset and on the host's turn, a step performs its next line. -/
theorem step_of_host_line {line : HostLine} {s : State} (hl : s.params.legal = true) (hr : s.env.rst = false)
    (hc : s.env.clkOn = true ∨ line.isBus = false) (hturn : s.nextTurn = some .host)
    (hline : s.env.host.current = some line) : step s = runLine line s.useTurn.advance := by
  rw [step_of_turn hl hr hturn]
  refine hostStep_of_current (by rw [State.useTurn_host, hline]) ?_
  rw [Bool.or_eq_true, Bool.not_eq_true']
  exact hc.symm.imp_right fun hc => Env.portOpen_of (by simpa using hr) (by simpa using hc)

/-- A write to CMD runs the command word (40_command R85). -/
theorem busWrite_cmd {a : Addr} (v : Word) (s : State) (ha : a &&& 0x3FFC = 0x000C) :
    busWrite a v s = exec (decode v) s :=
  if_pos ((wordOffset_eq_iff a 0x000C).2 ha)

/-- Settles O47: the line is the bus write, and the bus write runs the command word. -/
theorem stepRunsTheCommandWord : Obligations.StepRunsTheCommandWord := by
  intro a v s hl hr hc hturn hline ha
  exact (step_of_host_line hl hr (.inl hc) hturn hline).trans (busWrite_cmd v _ ha)

/-- `RD off -> t`, on the host: the value is appended and stands in t. -/
theorem hostRead_host (a : Addr) (t : Nat) (s : State) :
    (hostRead a t s).env.host = { s.env.host with
      reads := s.env.host.reads ++ [busReadValue a s]
      temps := tempSet s.env.host.temps t (busReadValue a s) } := rfl

/-- `RD off == v`, on the host: the value is appended, and a difference noted. -/
theorem hostCheck_host (a : Addr) (v : Word) (s : State) :
    (hostCheck a v s).env.host = { s.env.host with
      reads := s.env.host.reads ++ [busReadValue a s]
      failed := s.env.host.failed || decide (busReadValue a s ≠ v) } := rfl

/-- A branch to a defined label goes to the label's line. -/
theorem hostGoto_of_label {l n : Nat} {s : State} (h : s.env.host.labelLine l = some n) :
    hostGoto l s = .next (s.withHost { s.env.host with line := n }) := by
  rw [hostGoto, h]

/-- Settles O48: each line by its case of `runLine`. -/
theorem hostLinesRun : Obligations.HostLinesRun := by
  intro s
  refine ⟨?line, ?rd, ?rdCheck, fun _ => rfl, ?branch⟩
  case line =>
    intro line hl hr hc hturn hline
    have hstep := step_of_host_line hl hr hc hturn hline
    refine ⟨hstep, fun a v h => ?_, by simp, by simp, by simp⟩
    rw [hstep, h]; rfl
  case rd =>
    intro hw a t
    refine ⟨hostRead a t s, rfl, hostRead_blk a t s, hostRead_params a t s, ?_⟩
    rw [hostRead_host]
    exact ⟨rfl, rfl, rfl, rfl, fun x => tempGet_tempSet t x _ hw⟩
  case rdCheck =>
    intro a v
    exact ⟨hostCheck a v s, rfl, hostCheck_blk a v s, hostCheck_params a v s, hostCheck_host a v s⟩
  case branch =>
    intro t m l n hlabel
    simp only [runLine, hostGoto_of_label hlabel]
    split_ifs <;> exact ⟨rfl, rfl⟩

end Sys2Proof.Machine
end

section
/-! PROOFS. The commands (40_command R85 to R89): what a CMD write does through the open port. -/

namespace Sys2Proof.Machine

/-! ### Accepting, dropping, refusing (40_command R85, R86, R89) -/

/-- A command through the open port: dropped while busy, else accepted (R86). -/
theorem startCommand_open (op : Op) {s : State} (ho : s.env.portOpen = true) :
    startCommand op s = .next (s.withBlk (if s.blk.busy then s.blk.raiseErrBusy else s.blk.accept op)) := by
  rw [startCommand, if_pos ho]
  split_ifs <;> rfl

theorem startCommand_idle (op : Op) {s : State} (ho : s.env.portOpen = true) (hb : s.blk.busy = false) :
    startCommand op s = .next (s.withBlk (s.blk.accept op)) := by
  rw [startCommand_open op ho, hb, if_neg Bool.false_ne_true]

theorem startCommand_busy (op : Op) {s : State} (ho : s.env.portOpen = true) (hb : s.blk.busy = true) :
    startCommand op s = .next (s.withBlk s.blk.raiseErrBusy) := by
  rw [startCommand_open op ho, if_pos hb]

/-- A reserved opcode raises the one flag that BUSY selects (R89). -/
theorem reservedCommand_open {s : State} (ho : s.env.portOpen = true) :
    reservedCommand s = .next (s.withBlk (if s.blk.busy then s.blk.raiseErrBusy else s.blk.raiseErrCmd)) := by
  rw [reservedCommand, if_pos ho]
  split_ifs <;> rfl

/-- The six reserved rows have one meaning (30_encoding R73, R89). -/
theorem exec_of_isReserved {i : Instr} (h : i.isReserved = true) (s : State) : exec i s = reservedCommand s := by
  cases i with
  | nop | scan | encode | scanEncode => cases h
  | reserved0407 | reserved080F | reserved101F | reserved203F | reserved407F | reserved80FF => rfl

/-- Settles O5: NOP's meaning is the state itself, and its word decodes to it. -/
theorem nopChangesNothing : Obligations.NopChangesNothing := fun ign _ => ⟨rfl, decode_encode (.nop ign) rfl⟩

/-- Settles O7: the acceptance of SCAN. -/
theorem scanAccepted : Obligations.ScanAccepted := fun _ _ hr hc hb =>
  startCommand_idle .scan (Env.portOpen_of hr hc) hb

/-- Settles O8: the acceptance of ENCODE. -/
theorem encodeAccepted : Obligations.EncodeAccepted := fun _ _ hr hc hb =>
  startCommand_idle .encode (Env.portOpen_of hr hc) hb

/-- Settles O9: the acceptance of SCAN_ENCODE. -/
theorem scanEncodeAccepted : Obligations.ScanEncodeAccepted := fun _ _ hr hc hb =>
  startCommand_idle .scanEncode (Env.portOpen_of hr hc) hb

/-- Settles O10: the three commands share the busy check. -/
theorem busyBlockDropsCommands : Obligations.BusyBlockDropsCommands := by
  intro ign s hr hc hb i hi
  have hdrop : ∀ op, startCommand op s = .next (s.withBlk s.blk.raiseErrBusy) := fun op =>
    startCommand_busy op (Env.portOpen_of hr hc) hb
  simp only [List.mem_cons, List.not_mem_nil, or_false] at hi
  obtain rfl | rfl | rfl := hi
  · exact hdrop .scan
  · exact hdrop .encode
  · exact hdrop .scanEncode

/-- Settles O6: each row, and every word with OP from 0x04 on, is a reserved instruction. -/
theorem reservedOpcodeRaisesOneError : Obligations.ReservedOpcodeRaisesOneError := by
  intro s hr hc
  have hreserved : ∀ i : Instr, i.isReserved = true →
      exec i s = .next (s.withBlk (if s.blk.busy then s.blk.raiseErrBusy else s.blk.raiseErrCmd)) := fun i hi =>
    (exec_of_isReserved hi s).trans (reservedCommand_open (Env.portOpen_of hr hc))
  constructor
  · intro op ign i hi
    refine hreserved i ?_
    simp only [List.mem_cons, List.not_mem_nil, or_false] at hi
    obtain rfl | rfl | rfl | rfl | rfl | rfl := hi <;> rfl
  · intro w hw
    obtain ⟨-, -, -, -, hrow, -⟩ := everyWordIsOneRow w
    exact hreserved (decode w) (hrow hw)

/-- Settles O11: the rows of the opcode map, one by one, each by the check that decides it. -/
theorem cmdWriteChecksInOrder : Obligations.CmdWriteChecksInOrder := by
  intro a v s ha hr hc
  have ho := Env.portOpen_of hr hc
  obtain ⟨hnop, hscan, hencode, hscanEncode, hreserved, -⟩ := everyWordIsOneRow v
  rw [busWrite_cmd v s ha]
  generalize v.extractLsb' 0 8 = op at *
  have hrow : op = 0x00 ∨ op = 0x01 ∨ op = 0x02 ∨ op = 0x03 ∨ 0x04 ≤ op := by bv_omega
  obtain rfl | rfl | rfl | rfl | hres := hrow
  · rw [hnop rfl]; rfl
  · rw [hscan rfl]; exact startCommand_open .scan ho
  · rw [hencode rfl]; exact startCommand_open .encode ho
  · rw [hscanEncode rfl]; exact startCommand_open .scanEncode ho
  · have hnz : op ≠ 0x00 := by bv_omega
    rw [exec_of_isReserved (hreserved hres), reservedCommand_open ho, if_neg hnz, if_pos hres]
    rfl

end Sys2Proof.Machine
end

section
/-! PROOFS. The sequencer (40_command R90 to R92): its step phase by phase, its turn of the machine, and how many steps
a command takes. -/

namespace Sys2Proof.Machine

/-! ### The sample step, by what follows it (40_command R90) -/

section
variable (p : Params) (lv : Levels) {b : Block} (h : b.phase = .settle) (hc : b.cnt = 0)
include h hc

/-- Not the last line: the scan goes on to the next. -/
theorem Block.seqStep_nextLine (hd : b.d + 1 < p.numDrive) :
    b.seqStep p lv = { b.takeSample p lv with d := b.d + 1, phase := .assert } := by
  rw [b.seqStep_sample p lv h hc]
  exact if_pos hd

/-- The last line of SCAN_ENCODE: its ENC step comes next. -/
theorem Block.seqStep_toEnc (hd : p.numDrive ≤ b.d + 1) (ho : b.opL = .scanEncode) :
    b.seqStep p lv = { (b.takeSample p lv).publishScan p with phase := .enc } := by
  rw [b.seqStep_sample p lv h hc]
  exact (if_neg (Nat.not_lt_of_le hd)).trans (if_pos ho)

/-- The last line of any other scan: the command ends. -/
theorem Block.seqStep_scanEnd (hd : p.numDrive ≤ b.d + 1) (ho : b.opL ≠ .scanEncode) :
    b.seqStep p lv = ((b.takeSample p lv).publishScan p).finish := by
  rw [b.seqStep_sample p lv h hc]
  exact (if_neg (Nat.not_lt_of_le hd)).trans (if_neg ho)

end

/-- The frame of either form, in one equation (42_encode R122). -/
theorem Block.encodeReport_eq (p : Params) (b : Block) : b.encodeReport p = { b with
    rb := if b.modeL = .sixKro then constructSixKro p b.layerL b else constructNkro p b.layerL b
    rlen := if b.modeL = .sixKro then 9 else 34 } := by
  unfold Block.encodeReport
  cases b.modeL <;> rfl

/-- Settles O24: each phase's step, the sample step by what follows it. -/
theorem sequencerStepByPhase : Obligations.SequencerStepByPhase := by
  intro p lv b
  refine ⟨b.seqStep_idle p lv, b.seqStep_assert p lv, b.seqStep_wait p lv, b.seqStep_nextLine p lv,
    b.seqStep_toEnc p lv, b.seqStep_scanEnd p lv, fun h => ?_⟩
  rw [b.seqStep_enc p lv h, b.encodeReport_eq p]
  rfl

/-! ### The sequencer's turn, and the turns of the pins (40_command R90, 41_scan R104, log 5, log 10) -/

theorem State.sequencerEnabled_iff (s : State) :
    s.sequencerEnabled = true ↔ s.blk.phase ≠ .idle ∧ s.env.rst = false ∧ s.env.clkOn = true := by
  simp [State.sequencerEnabled, and_assoc]

theorem Block.samplesNow_iff (b : Block) : b.samplesNow = true ↔ b.phase = .settle ∧ b.cnt = 0 := by
  simp [Block.samplesNow]

/-- A sequencer turn, its two conditions written out. -/
theorem takeTurn_sequencer (s : State) : takeTurn .sequencer s = .next
    (if s.blk.phase ≠ .idle ∧ s.env.rst = false ∧ s.env.clkOn = true then
      { s with
        blk := s.blk.seqStep s.params s.env.sample
        env := if s.blk.phase = .settle ∧ s.blk.cnt = 0 then s.env.sampled else s.env }
    else s) := by
  simp only [takeTurn, sequencerStep, s.sequencerEnabled_iff, s.blk.samplesNow_iff]

/-- Using a turn up writes the schedule alone. -/
theorem State.useTurn_schedule (s : State) : s.useTurn = { s with env := { s.env with
    turns := s.useTurn.env.turns, picks := s.useTurn.env.picks, waited := s.useTurn.env.waited } } := by
  rcases s.useTurn_eq with h | h <;> rw [h]
  unfold Env.contended
  split <;> rfl

/-- The held state is the state with its block held (70 R170). -/
theorem State.holdReset_eq_withBlk (s : State) :
    s.holdReset = s.withBlk (if s.env.rst then Block.reset s.params else s.blk) := by
  unfold State.holdReset
  split <;> rfl

/-- A supplied turn is taken, used up, from the block as `rst` holds it (20_memory R60, 70 R170). -/
theorem step_of_given_turn {s : State} {u : Turn} {rest : List Turn} (hl : s.params.legal = true)
    (ht : s.env.turns = u :: rest) : step s = takeTurn u { s with
      blk := if s.env.rst then Block.reset s.params else s.blk, env := { s.env with turns := rest } } := by
  have hheld : s.holdReset.env.turns = u :: rest := by rw [s.holdReset_env, ht]
  obtain ⟨hturn, huse⟩ := State.nextTurn_cons hheld
  rw [step_of_legal hl, runStep, hturn, huse, s.holdReset_eq_withBlk]
  rfl

/-- Settles O25: the sequencer's turn, the draw it makes, and the pins' turns. -/
theorem sequencerTurn : Obligations.SequencerTurn := by
  intro s
  refine ⟨takeTurn_sequencer s, fun lv rest h => ?_, fun h => ?_, fun hl hr hturn => ?_, fun rest hl => ?_⟩
  · simp [Env.sample, Env.sampled, h]
  · simp [Env.sample, Env.sampled, h]
  · exact ⟨step_of_turn hl hr hturn, s.useTurn_schedule⟩
  · exact ⟨step_of_given_turn hl, step_of_given_turn hl, step_of_given_turn hl⟩

/-! ### The steps a command has left (40_command R91) -/

section
variable (p : Params) {b : Block}

theorem Block.stepsLeft_idle (h : b.phase = .idle) : b.stepsLeft p = 0 := by
  rw [Block.stepsLeft, h]

theorem Block.stepsLeft_assert (h : b.phase = .assert) :
    b.stepsLeft p = (p.numDrive - b.d) * (b.settleL.toNat + 2) + b.opL.encSteps := by
  rw [Block.stepsLeft, h]

theorem Block.stepsLeft_settle (h : b.phase = .settle) : b.stepsLeft p =
    b.cnt.toNat + 1 + (p.numDrive - (b.d + 1)) * (b.settleL.toNat + 2) + b.opL.encSteps := by
  rw [Block.stepsLeft, h]

theorem Block.stepsLeft_enc (h : b.phase = .enc) : b.stepsLeft p = 1 := by
  rw [Block.stepsLeft, h]

end

/-- From line d on, the lines after it and the line itself, of k steps each. -/
theorem lineSteps_succ {n d : Nat} (hd : d < n) (k : Nat) : (n - d) * k = (n - (d + 1)) * k + k := by
  rw [← Nat.succ_mul]
  congr 1
  omega

theorem Op.encSteps_of_ne {op : Op} (h : op ≠ .scanEncode) : op.encSteps = 0 := by
  cases op with
  | scan | encode => rfl
  | scanEncode => exact absurd rfl h

/-- Settles O26, phase by phase: a line takes its settle count and two steps more. -/
theorem sequencerCountsDown : Obligations.SequencerCountsDown := by
  intro p lv b hagree hrun
  cases h : b.phase with
  | idle => exact absurd h hrun
  | assert =>
    have hline := lineSteps_succ (hagree.1 (.inl h)).1 (b.settleL.toNat + 2)
    rw [b.seqStep_assert p lv h, Block.stepsLeft_settle p rfl, Block.stepsLeft_assert p h, hline]
    simp only [Block.assertLine_cnt, Block.assertLine_d, Block.assertLine_settleL, Block.assertLine_opL]
    omega
  | settle =>
    by_cases hc : b.cnt = 0
    · have hcnt : b.cnt.toNat = 0 := by rw [hc]; rfl
      by_cases hd : b.d + 1 < p.numDrive
      · rw [b.seqStep_nextLine p lv h hc hd, Block.stepsLeft_assert p rfl, Block.stepsLeft_settle p h, hcnt]
        simp only [Block.takeSample_settleL, Block.takeSample_opL]
        omega
      · have hlast : p.numDrive - (b.d + 1) = 0 := by omega
        rw [Block.stepsLeft_settle p h, hcnt, hlast, Nat.zero_mul]
        by_cases ho : b.opL = .scanEncode
        · rw [b.seqStep_toEnc p lv h hc (by omega) ho, Block.stepsLeft_enc p rfl, ho]
          rfl
        · rw [b.seqStep_scanEnd p lv h hc (by omega) ho, Block.stepsLeft_idle p rfl, Op.encSteps_of_ne ho]
    · have hpos : b.cnt.toNat ≠ 0 := fun e => hc (BitVec.eq_of_toNat_eq e)
      have hfall : (b.cnt - 1).toNat + 1 = b.cnt.toNat := by bv_omega
      rw [b.seqStep_wait p lv h hc, Block.stepsLeft_settle p h, Block.stepsLeft_settle p (b := b.settleWait) h]
      simp only [Block.settleWait_cnt, Block.settleWait_d, Block.settleWait_settleL, Block.settleWait_opL]
      omega
  | enc =>
    rw [b.seqStep_enc p lv h, Block.stepsLeft_idle p rfl, Block.stepsLeft_enc p h]

/-! ### From acceptance to the finish step (40_command R91, R92) -/

/-- A command is running: BUSY, and a phase that agrees with it (10_state R35). -/
structure Block.Runs (p : Params) (b : Block) : Prop where
  busy : b.busy = true
  phase : b.phase ≠ .idle
  agrees : b.phaseAgrees p

/-- The command has ended (`finish()`, 40_command R90). -/
structure Block.Finished (b : Block) : Prop where
  busy : b.busy = false
  done : b.done = true
  phase : b.phase = .idle

theorem Block.finish_finished (b : Block) : b.finish.Finished := ⟨rfl, rfl, rfl⟩

/-- A phase other than IDLE has a step left. -/
theorem Block.stepsLeft_pos {p : Params} {b : Block} (hagree : b.phaseAgrees p) (h : b.phase ≠ .idle) :
    0 < b.stepsLeft p := by
  rw [← sequencerCountsDown p 0 b hagree h]
  exact Nat.succ_pos _

/-- A sequencer step of a running command leaves it running or finishes it. -/
theorem Block.Runs.seqStep {p : Params} {b : Block} (hr : b.Runs p) (lv : Levels) :
    (b.seqStep p lv).Runs p ∨ (b.seqStep p lv).Finished := by
  obtain ⟨hbusy, hphase, hagree⟩ := hr
  cases h : b.phase with
  | idle => exact absurd h hphase
  | assert =>
    rw [b.seqStep_assert p lv h]
    exact .inl ⟨hbusy, nofun, fun _ => hagree.1 (.inl h), nofun⟩
  | settle =>
    have hline := hagree.1 (.inr h)
    by_cases hc : b.cnt = 0
    · by_cases hd : b.d + 1 < p.numDrive
      · rw [b.seqStep_nextLine p lv h hc hd]
        exact .inl ⟨hbusy, nofun, fun _ => ⟨hd, hline.2⟩, nofun⟩
      · by_cases ho : b.opL = .scanEncode
        · rw [b.seqStep_toEnc p lv h hc (by omega) ho]
          exact .inl ⟨hbusy, nofun, nofun, fun _ e => nomatch ho.symm.trans e⟩
        · rw [b.seqStep_scanEnd p lv h hc (by omega) ho]
          exact .inr (Block.finish_finished _)
    · rw [b.seqStep_wait p lv h hc]
      exact .inl ⟨hbusy, hphase, hagree⟩
  | enc =>
    rw [b.seqStep_enc p lv h]
    exact .inr (Block.finish_finished _)

/-- With more than one step left, the command runs on. -/
theorem Block.Runs.seqStep_runs {p : Params} {b : Block} (hr : b.Runs p) (lv : Levels) (h : 1 < b.stepsLeft p) :
    (b.seqStep p lv).Runs p := by
  have hcount := sequencerCountsDown p lv b hr.agrees hr.phase
  refine (hr.seqStep lv).resolve_right fun hfin => ?_
  rw [Block.stepsLeft_idle p hfin.phase] at hcount
  omega

/-- The last step finishes the command. -/
theorem Block.Runs.seqStep_finishes {p : Params} {b : Block} (hr : b.Runs p) (lv : Levels) (h : b.stepsLeft p = 1) :
    (b.seqStep p lv).Finished := by
  have hcount := sequencerCountsDown p lv b hr.agrees hr.phase
  refine (hr.seqStep lv).resolve_left fun hruns => ?_
  have hpos := Block.stepsLeft_pos hruns.agrees hruns.phase
  omega

/-- Fewer steps than are left take that many off and leave the command running. -/
theorem Block.Runs.runSeq {p : Params} (answer : Nat → Levels) {b : Block} (hr : b.Runs p) {k : Nat}
    (hk : k < b.stepsLeft p) :
    (Block.runSeq p answer k b).Runs p ∧ (Block.runSeq p answer k b).stepsLeft p + k = b.stepsLeft p := by
  induction k generalizing b with
  | zero => exact ⟨hr, rfl⟩
  | succ k ih =>
    have hcount := sequencerCountsDown p (answer b.d) b hr.agrees hr.phase
    obtain ⟨hruns, hleft⟩ := ih (hr.seqStep_runs (answer b.d) (by omega)) (by omega)
    rw [Block.runSeq]
    exact ⟨hruns, by omega⟩

/-- All the steps left finish the command (R91). -/
theorem Block.Runs.runSeq_finishes {p : Params} (answer : Nat → Levels) {b : Block} (hr : b.Runs p) :
    (Block.runSeq p answer (b.stepsLeft p) b).Finished := by
  obtain ⟨n, hn⟩ : ∃ n, b.stepsLeft p = n + 1 :=
    Nat.exists_eq_add_one.2 (Block.stepsLeft_pos hr.agrees hr.phase)
  obtain ⟨hruns, hleft⟩ := hr.runSeq answer (show n < b.stepsLeft p by omega)
  rw [hn, Block.runSeq_add]
  exact hruns.seqStep_finishes _ (by omega)

/-- An accepted command runs (R86). -/
theorem Block.accept_runs (p : Params) (hl : p.legal = true) (b : Block) (op : Op) : (b.accept op).Runs p := by
  have hN := (p.numDrive_range hl).1
  cases op with
  | scan | scanEncode => exact ⟨rfl, nofun, fun _ => ⟨hN, nofun⟩, nofun⟩
  | encode => exact ⟨rfl, nofun, nofun, fun _ => nofun⟩

/-- Settles O27: the counts are the steps an accepted command has left, and each step takes one off. -/
theorem commandStepCounts : Obligations.CommandStepCounts := by
  intro p answer op b hl n
  have hn : n = (b.accept op).stepsLeft p := (b.stepsLeft_accept p op).symm
  have hruns := b.accept_runs p hl op
  have hfin := hruns.runSeq_finishes answer
  rw [hn]
  refine ⟨fun k hk => ?_, hfin.phase, hfin.busy, hfin.done⟩
  have hk := (hruns.runSeq answer hk).1
  exact ⟨hk.phase, hk.busy⟩

/-- An accepted SCAN run to its end, in one equation (41_scan R100). -/
theorem Block.runCommand_scan (p : Params) (answer : Nat → Levels) (hl : p.legal = true) (b : Block) :
    b.runCommand p answer .scan
      = (b.accept .scan).scanned p (scanAcc p answer 0 p.numDrive 0) (scanDrive 0 p.numDrive b.drive) := by
  rw [Block.runCommand, Block.stepsLeft_accept]
  exact Block.runSeq_accept_scan p answer hl b nofun

/-- Settles O32: the whole scan in one equation, which writes none of the fields named. -/
theorem scanFrame : Obligations.ScanFrame := by
  intro p answer b hl hhigh
  rw [b.runCommand_scan p answer hl, hhigh, scanDrive_allHigh]
  exact ⟨rfl, rfl, rfl, rfl, rfl, rfl, rfl, rfl, rfl, rfl, rfl, rfl⟩

end Sys2Proof.Machine
end

section
/-! PROOFS. Commands beside the host (40_command R92, R93): what a host turn leaves of a running command and of an idle
block's results, and that a running command finishes under every schedule. -/

namespace Sys2Proof.Machine

/-! ### What a bus write can do to the block (40_command R85, 20_memory R56) -/

/-- A command word leaves the block, raises a flag, or is accepted by an idle block (R85 to R89). -/
theorem exec_blk_cases {v : Word} {s t : State} (h : exec (decode v) s = .next t) :
    t.blk = s.blk ∨ (s.blk.busy = true ∧ t.blk = s.blk.raiseErrBusy)
      ∨ (s.blk.busy = false ∧ (t.blk = s.blk.raiseErrCmd ∨ ∃ op, t.blk = s.blk.accept op)) := by
  obtain hx | ⟨-, op, hx⟩ | ⟨-, hx⟩ := exec_decode_cases v s <;> rw [hx] at h
  · cases h; exact .inl rfl
  · unfold startCommand at h
    split_ifs at h with hopen hbusy <;> cases h
    · exact .inr (.inl ⟨hbusy, rfl⟩)
    · exact .inr (.inr ⟨eq_false_of_ne_true hbusy, .inr ⟨op, rfl⟩⟩)
    · exact .inl rfl
  · unfold reservedCommand at h
    split_ifs at h with hopen hbusy <;> cases h
    · exact .inr (.inl ⟨hbusy, rfl⟩)
    · exact .inr (.inr ⟨eq_false_of_ne_true hbusy, .inl rfl⟩)
    · exact .inl rfl

/-- A register write leaves the block, or is one of the four of 20_memory R56. -/
theorem Block.writeReg_cases (p : Params) (b : Block) (o : Nat) (v : Word) :
    b.writeReg p o v = b ∨ b.writeReg p o v = b.writeCtrl p v ∨ b.writeReg p o v = b.clearFlags v
      ∨ b.writeReg p o v = b.writeSettle v
      ∨ (inBitmap o = true ∧ b.writeReg p o v = b.writeBitmap p (bitmapIndex o) v) := by
  unfold Block.writeReg
  split_ifs with hctrl hstatus hsettle hbitmap
  · exact .inr (.inl rfl)
  · exact .inr (.inr (.inl rfl))
  · exact .inr (.inr (.inr (.inl rfl)))
  · rw [Bool.and_eq_true] at hbitmap
    exact .inr (.inr (.inr (.inr ⟨hbitmap.1, rfl⟩)))
  · exact .inl rfl

/-- A bus write makes a command word's change of the block or a register write's, or none. -/
theorem busWrite_blk_cases {a : Addr} {v : Word} {s t : State} (h : busWrite a v s = .next t) :
    exec (decode v) s = .next t ∨ t.blk = s.blk.writeReg s.params (wordOffset a) v ∨ t.blk = s.blk := by
  unfold busWrite at h
  split_ifs at h
  · exact .inl h
  · cases h; exact .inr (.inl rfl)
  · cases h; exact .inr (.inr rfl)

/-! ### A running command (40_command R87, R93) -/

/-- The blocks differ at most in what the host may write while a command runs: CTRL, SETTLE and the sticky flags. -/
def Block.SameCommand (b c : Block) : Prop :=
  ∃ mode layer ie settle done errCmd errBusy, c = { b with
    mode := mode, layer := layer, ie := ie, settle := settle, done := done, errCmd := errCmd, errBusy := errBusy }

theorem Block.SameCommand.refl (b : Block) : b.SameCommand b := ⟨_, _, _, _, _, _, _, rfl⟩

theorem Block.SameCommand.raiseErrBusy (b : Block) : b.SameCommand b.raiseErrBusy := ⟨_, _, _, _, _, _, _, rfl⟩

/-- The steps left do not depend on what the host may write. -/
theorem Block.SameCommand.stepsLeft_eq {b c : Block} (h : b.SameCommand c) (p : Params) :
    c.stepsLeft p = b.stepsLeft p := by
  obtain ⟨_, _, _, _, _, _, _, rfl⟩ := h
  rfl

theorem Block.SameCommand.busy_eq {b c : Block} (h : b.SameCommand c) : c.busy = b.busy := by
  obtain ⟨_, _, _, _, _, _, _, rfl⟩ := h
  rfl

/-- While busy, a register write leaves the command alone: a BITMAP write is dropped (10_state R32). -/
theorem Block.writeReg_sameCommand (p : Params) {b : Block} (hb : b.busy = true) (o : Nat) (v : Word) :
    b.SameCommand (b.writeReg p o v) := by
  obtain h | h | h | h | ⟨-, h⟩ := b.writeReg_cases p o v <;> rw [h]
  · exact .refl b
  · exact ⟨_, _, _, _, _, _, _, rfl⟩
  · exact ⟨_, _, _, _, _, _, _, rfl⟩
  · exact ⟨_, _, _, _, _, _, _, rfl⟩
  · rw [Block.writeBitmap, if_pos hb]
    exact .raiseErrBusy b

/-- While busy, a bus write leaves the command alone. -/
theorem busWrite_sameCommand {a : Addr} {v : Word} {s t : State} (hb : s.blk.busy = true)
    (h : busWrite a v s = .next t) : s.blk.SameCommand t.blk := by
  obtain h | h | h := busWrite_blk_cases h
  · obtain h | ⟨-, h⟩ | ⟨hidle, -⟩ := exec_blk_cases h
    · rw [h]; exact .refl _
    · rw [h]; exact .raiseErrBusy _
    · rw [hb] at hidle; cases hidle
  · rw [h]; exact Block.writeReg_sameCommand _ hb _ _
  · rw [h]; exact .refl _

/-- While busy, a host step leaves the command alone. -/
theorem hostStep_sameCommand {s t : State} (hb : s.blk.busy = true) (h : hostStep s = .next t) :
    s.blk.SameCommand t.blk := by
  obtain h | ⟨a, v, -, -, h⟩ := hostStep_blk h
  · rw [h]; exact .refl _
  · exact busWrite_sameCommand (s := s.advance) hb h

/-- Settles O53: the fields named are none of those the host may write while a command runs. -/
theorem hostCannotDisturbCommand : Obligations.HostCannotDisturbCommand := by
  intro s t hb h
  obtain ⟨_, _, _, _, _, _, _, h⟩ := hostStep_sameCommand hb h
  rw [h]
  exact ⟨rfl, rfl, rfl, rfl, rfl, rfl, rfl, rfl, rfl, rfl, rfl, rfl, hb⟩

/-! ### An idle block's results (40_command R93) -/

/-- No bus write touches the report or the drive lines. -/
theorem WriteMove.keeps_results {p : Params} {b c : Block} {a : Addr} {v : Word} (h : WriteMove p b a v c) :
    c.rb = b.rb ∧ c.rlen = b.rlen ∧ c.drive = b.drive := by
  cases h with
  | accept op =>
    obtain ⟨-, -, -, -, -, -, -, hrlen, -, hrb, -, hdrive⟩ := b.accept_keeps op
    exact ⟨hrb, hrlen, hdrive⟩
  | stay | errCmd | busyCmd | busyBitmap | ctrl | status | settle | bitmap => exact ⟨rfl, rfl, rfl⟩

/-- A bus write outside the BITMAP window leaves the bitmap (20_memory R58). -/
theorem busWrite_bitmap_outside {a : Addr} {v : Word} {s t : State} (hout : ¬ inBitmap (wordOffset a) = true)
    (h : busWrite a v s = .next t) : t.blk.bitmap = s.blk.bitmap := by
  obtain h | h | h := busWrite_blk_cases h
  · obtain h | ⟨-, h⟩ | ⟨-, h | ⟨op, h⟩⟩ := exec_blk_cases h <;> rw [h]
    · rfl
    · rfl
    · obtain ⟨-, -, -, -, -, -, -, -, hbitmap, -⟩ := s.blk.accept_keeps op
      exact hbitmap
  · rw [h]
    obtain h | h | h | h | ⟨hin, -⟩ := s.blk.writeReg_cases s.params (wordOffset a) v
    · rw [h]
    · rw [h]; rfl
    · rw [h]; rfl
    · rw [h]; rfl
    · exact absurd hin hout
  · rw [h]

/-- Settles O54: of all a step of an idle block can do, only a host write touches BITMAP, and none the report. -/
theorem idleBlockKeepsResults : Obligations.IdleBlockKeepsResults := by
  intro s t _ hidle hr hturn h
  obtain h | ⟨hrst, -⟩ | ⟨-, hrun, -⟩ | ⟨a, v, hhost, hline, -, h⟩ := step_cases hr h
  · rw [h]
    exact ⟨rfl, rfl, rfl, fun hne => absurd rfl hne⟩
  · exact absurd hrst hturn
  · exact absurd hidle hrun
  · obtain ⟨hrb, hrlen, hdrive⟩ := (busWrite_writeMove h).keeps_results
    refine ⟨by simpa using hrb, by simpa using hrlen, by simpa using hdrive, fun hne => ?_⟩
    refine ⟨hhost, a, v, hline, (inBitmap_iff (wordOffset a)).1 ?_⟩
    by_contra hout
    exact hne (by simpa using busWrite_bitmap_outside hout h)

/-! ### Every schedule (40_command R92, 20_memory R60, R61) -/

/-- Whether a host program can be performed depends on the program alone. -/
theorem HostAgent.ok_of_prog {h k : HostAgent} (hp : h.prog = k.prog) : h.ok = k.ok := by
  unfold HostAgent.ok HostAgent.lineOk HostAgent.labelLine
  rw [hp]

/-- A branch to a label of the program goes on. -/
theorem hostGoto_goesOn {l : Nat} {s : State} (h : (s.env.host.labelLine l).isSome = true) :
    ∃ t, hostGoto l s = .next t := by
  obtain ⟨n, hn⟩ := Option.isSome_iff_exists.1 h
  exact ⟨_, hostGoto_of_label hn⟩

/-- A line the host can perform goes on. -/
theorem runLine_goesOn {line : HostLine} {s : State} (h : s.env.host.lineOk line = true) :
    ∃ t, runLine line s = .next t := by
  cases line with
  | wr a v =>
    obtain ⟨b, hb, -⟩ := busWrite_eq a v s
    exact ⟨_, hb⟩
  | rd | rdCheck | label | rdNarrow => exact ⟨_, rfl⟩
  | bz t m l =>
    rw [runLine]
    split_ifs
    · exact hostGoto_goesOn h
    · exact ⟨s, rfl⟩
  | bnz t m l =>
    rw [runLine]
    split_ifs
    · exact ⟨s, rfl⟩
    · exact hostGoto_goesOn h
  | wrNarrow => cases h

/-- A host of plain lines goes on. -/
theorem hostStep_goesOn {s : State} (h : s.env.host.ok = true) : ∃ t, hostStep s = .next t := by
  unfold hostStep
  split
  · rename_i line hline
    split_ifs
    · have hok : s.env.host.lineOk line = true := List.all_eq_true.1 h line (List.mem_of_getElem? hline)
      exact runLine_goesOn (s := s.advance) hok
    · exact ⟨s, rfl⟩
  · exact ⟨s, rfl⟩

/-- A command with n steps left runs on a clocked block out of reset, beside a host of plain lines, and these turns
are to come. -/
structure State.RunsCommand (s : State) (turns : List Turn) (n : Nat) : Prop where
  inv : s.Inv
  ok : s.env.host.ok = true
  rst : s.env.rst = false
  clk : s.env.clkOn = true
  busy : s.blk.busy = true
  turns : s.env.turns = turns
  left : s.blk.stepsLeft s.params = n

section
variable {s : State} {ts : List Turn} {n : Nat}

theorem State.RunsCommand.blk_runs (h : s.RunsCommand ts n) : s.blk.Runs s.params :=
  ⟨h.busy, h.inv.blk.busy.1 h.busy, h.inv.blk.phase⟩

/-- The step is the supplied turn, used up. -/
theorem State.RunsCommand.step_eq {u : Turn} (h : s.RunsCommand (u :: ts) n) :
    step s = takeTurn u { s with env := { s.env with turns := ts } } := by
  obtain ⟨hturn, huse⟩ := State.nextTurn_cons h.turns
  rw [step_of_turn h.inv.legal h.rst hturn, huse]

/-- An agent's turn that leaves the command running keeps the rest of what a run needs. -/
theorem State.RunsCommand.next {t : State} {u : Turn} {m : Nat} (h : s.RunsCommand (u :: ts) n)
    (hu : u.isAgent = true) (hstep : step s = .next t) (hbusy : t.blk.busy = true)
    (hleft : t.blk.stepsLeft s.params = m) : t.RunsCommand ts m := by
  obtain ⟨hparams, -, hprog⟩ := step_next hstep
  obtain ⟨hrst, hclk, hturns, -, -⟩ := agent_schedule hu (h.step_eq ▸ hstep)
  exact {
    inv := stepKeepsInvariant s t h.inv hstep
    ok := HostAgent.ok_of_prog hprog ▸ h.ok
    rst := hrst.trans h.rst
    clk := hclk.trans h.clk
    busy := hbusy
    turns := hturns
    left := hparams ▸ hleft }

/-- A host turn goes on and takes no step off (R93). -/
theorem State.RunsCommand.host_turn (h : s.RunsCommand (.host :: ts) n) :
    ∃ t, step s = .next t ∧ t.RunsCommand ts n := by
  obtain ⟨t, ht⟩ := hostStep_goesOn (s := { s with env := { s.env with turns := ts } }) h.ok
  have hstep : step s = .next t := h.step_eq.trans ht
  have hsame := hostStep_sameCommand (s := { s with env := { s.env with turns := ts } }) h.busy ht
  exact ⟨t, hstep, h.next rfl hstep (hsame.busy_eq.trans h.busy) ((hsame.stepsLeft_eq _).trans h.left)⟩

/-- A sequencer turn makes a sequencer step. -/
theorem State.RunsCommand.step_sequencer (h : s.RunsCommand (.sequencer :: ts) n) :
    ∃ t lv, step s = .next t ∧ t.blk = s.blk.seqStep s.params lv ∧ t.env.turns = ts := by
  have hcan : s.blk.phase ≠ .idle ∧ s.env.rst = false ∧ s.env.clkOn = true := ⟨h.blk_runs.phase, h.rst, h.clk⟩
  have hstep := h.step_eq.trans (takeTurn_sequencer _)
  rw [if_pos hcan] at hstep
  exact ⟨_, _, hstep, rfl, (takeTurn_schedule (h.step_eq ▸ hstep)).1⟩

/-- A sequencer turn before the last takes one step off (R91). -/
theorem State.RunsCommand.sequencer_turn (h : s.RunsCommand (.sequencer :: ts) (n + 2)) :
    ∃ t, step s = .next t ∧ t.RunsCommand ts (n + 1) := by
  obtain ⟨t, lv, hstep, hblk, -⟩ := h.step_sequencer
  have hleft := h.left
  have hcount := sequencerCountsDown s.params lv s.blk h.blk_runs.agrees h.blk_runs.phase
  have hruns := h.blk_runs.seqStep_runs lv (by omega)
  exact ⟨t, hstep, h.next rfl hstep (hblk ▸ hruns.busy) (by rw [hblk]; omega)⟩

/-- The sequencer's last turn finishes the command (R92). -/
theorem State.RunsCommand.last_turn (h : s.RunsCommand (.sequencer :: ts) 1) :
    ∃ t, step s = .next t ∧ t.blk.Finished ∧ t.env.turns = ts := by
  obtain ⟨t, lv, hstep, hblk, hturns⟩ := h.step_sequencer
  exact ⟨t, hstep, hblk ▸ h.blk_runs.seqStep_finishes lv h.left, hturns⟩

/-- An agent's turn with a sequencer turn to come for every step left after it. -/
theorem State.RunsCommand.agent_turn {u : Turn} {us : List Turn} (hu : u.isAgent = true)
    (h : s.RunsCommand (u :: ts) ((u :: us).count .sequencer + 1)) :
    ∃ t, step s = .next t ∧ t.RunsCommand ts (us.count .sequencer + 1) := by
  cases u with
  | host => exact State.RunsCommand.host_turn h
  | sequencer =>
    rw [List.count_cons_self] at h
    exact h.sequencer_turn
  | assertRst | releaseRst | stopClk | startClk => cases hu

end

/-- A run whose agents' turns are followed by the one that finishes the command (R60, R92). -/
theorem State.RunsCommand.finishes {rest : List Turn} (ts : List Turn) {s : State}
    (h : s.RunsCommand (ts ++ .sequencer :: rest) (ts.count .sequencer + 1)) (hts : ∀ u ∈ ts, u.isAgent = true) :
    (∀ k, k ≤ ts.length → ∃ t, Host.Core.run Sys2Proof.core k s = .next t ∧ t.blk.busy = true)
      ∧ ∃ t, Host.Core.run Sys2Proof.core (ts.length + 1) s = .next t ∧ t.blk.Finished ∧ t.env.turns = rest := by
  induction ts generalizing s with
  | nil =>
    obtain ⟨t, hstep, hfin⟩ := State.RunsCommand.last_turn h
    refine ⟨fun k hk => ⟨s, ?_, h.busy⟩, t, run_succ hstep 0, hfin⟩
    rw [Nat.le_zero.1 hk]
    rfl
  | cons u ts ih =>
    obtain ⟨hu, hrest⟩ := List.forall_mem_cons.1 hts
    obtain ⟨t, hstep, hruns⟩ := State.RunsCommand.agent_turn hu h
    obtain ⟨hbusy, hfin⟩ := ih hruns hrest
    refine ⟨fun k hk => ?_, by rwa [List.length_cons, run_succ hstep]⟩
    cases k with
    | zero => exact ⟨s, rfl, h.busy⟩
    | succ k =>
      rw [run_succ hstep]
      exact hbusy k (Nat.le_of_succ_le_succ hk)

/-- Settles O57: every sequencer turn takes one step off, a host turn none, and the last one finishes. -/
theorem commandFinishesUnderAnySchedule : Obligations.CommandFinishesUnderAnySchedule := by
  intro s ts rest hinv hok hrst hclk hbusy hturns hts hleft
  have h : s.RunsCommand (ts ++ .sequencer :: rest) (ts.count .sequencer + 1) :=
    ⟨hinv, hok, hrst, hclk, hbusy, hturns, hleft.symm⟩
  obtain ⟨hruns, t, hrun, hfin, hrest⟩ := h.finishes ts hts
  exact ⟨hruns, t, hrun, hfin.busy, hfin.done, hfin.phase, hrest⟩

end Sys2Proof.Machine
end

section
/-! PROOFS. The layout of the matrix (41_scan R101, R102): bit indices as row-major ranks, and the position where a
drive and a sense line meet. -/

namespace Sys2Proof

/-! ### Ranks in the row-major list (41_scan R101) -/

/-- The set entries of a prefix, counted by their numbers. -/
theorem count_take_eq_count (l : List Bool) (m : Nat) :
    (l.take m).count true = Nat.count (fun k => l.getD k false = true) m := by
  induction m with
  | zero => rfl
  | succ m ih => rw [count_take_succ, ih, Nat.count_succ]

/-- Every count below a prefix's own is the count before one of its set entries. -/
theorem exists_set_of_lt_count_take (l : List Bool) {m i : Nat} (h : i < (l.take m).count true) :
    ∃ k < m, l.getD k false = true ∧ (l.take k).count true = i := by
  induction m with
  | zero => exact absurd h (Nat.not_lt_zero i)
  | succ m ih =>
    by_cases hi : i < (l.take m).count true
    · obtain ⟨k, hk, hset⟩ := ih hi
      exact ⟨k, Nat.lt_succ_of_lt hk, hset⟩
    · rw [count_take_succ] at h
      by_cases hm : l.getD m false = true
      · rw [if_pos hm] at h
        exact ⟨m, Nat.lt_succ_self m, hm, by omega⟩
      · rw [if_neg hm] at h
        exact absurd h hi

/-- A row-major number lies in the matrix exactly when its row does. -/
theorem rowMajor_lt_iff {n r c m : Nat} (hc : c < n) : r * n + c < m * n ↔ r < m := by
  have hn : 0 < n := Nat.zero_lt_of_lt hc
  rw [← Nat.div_lt_iff_lt_mul hn, Nat.mul_comm, Nat.mul_add_div hn, Nat.div_eq_of_lt hc, Nat.add_zero]

/-- Entry k of the row-major list is the position in row k / N_COLS and column k % N_COLS. -/
theorem Params.wired_divMod (p : Params) (h : p.legal = true) (k : Nat) :
    p.wired (k / p.nCols) (k % p.nCols) = p.positions.getD k false := by
  have hn := (p.legal_iff.1 h).2.1.1
  rw [p.wired_eq_positions h (Nat.mod_lt k hn), Nat.div_add_mod']

/-- idx is the number of non-empty positions before (r, c) in row-major order (R101). -/
theorem Params.idx_eq_card (p : Params) (h : p.legal = true) {r c : Nat} (hr : r < p.nRows) (hc : c < p.nCols) :
    p.idx r c = (((Finset.range p.nRows) ×ˢ (Finset.range p.nCols)).filter fun q =>
      p.wired q.1 q.2 = true ∧ q.1 * p.nCols + q.2 < r * p.nCols + c).card := by
  have hend : r * p.nCols + c < p.nRows * p.nCols := (rowMajor_lt_iff hc).2 hr
  rw [Params.idx, count_take_eq_count, Nat.count_eq_card_filter_range]
  refine Finset.card_nbij' (fun k => (k / p.nCols, k % p.nCols)) (fun q => q.1 * p.nCols + q.2) ?_ ?_ ?_ ?_
  · intro k hk
    obtain ⟨hlt, hset⟩ := Finset.mem_filter.1 hk
    have hlt := Finset.mem_range.1 hlt
    have hrow : k / p.nCols < p.nRows := (Nat.div_lt_iff_lt_mul (Nat.zero_lt_of_lt hc)).2 (hlt.trans hend)
    refine Finset.mem_filter.2 ⟨Finset.mk_mem_product (Finset.mem_range.2 hrow)
      (Finset.mem_range.2 (Nat.mod_lt k (Nat.zero_lt_of_lt hc))), (p.wired_divMod h k).trans hset, ?_⟩
    rwa [Nat.div_add_mod']
  · intro q hq
    obtain ⟨hmem, hset, hlt⟩ := Finset.mem_filter.1 hq
    have hcol := Finset.mem_range.1 (Finset.mem_product.1 hmem).2
    exact Finset.mem_filter.2 ⟨Finset.mem_range.2 hlt, (p.wired_eq_positions h hcol).symm.trans hset⟩
  · exact fun k _ => Nat.div_add_mod' k p.nCols
  · intro q hq
    have hcol := Finset.mem_range.1 (Finset.mem_product.1 (Finset.mem_filter.1 hq).1).2
    obtain ⟨hrow, hrest⟩ := rowMajor_inj (Nat.mod_lt _ (Nat.zero_lt_of_lt hc)) hcol
      (Nat.div_add_mod' (q.1 * p.nCols + q.2) p.nCols)
    exact Prod.ext hrow hrest

/-- Every index below K is the index of a non-empty position (R101). -/
theorem Params.exists_idx_eq (p : Params) (h : p.legal = true) {i : Nat} (hi : i < p.numKeys) :
    ∃ r c, r < p.nRows ∧ c < p.nCols ∧ p.wired r c = true ∧ p.idx r c = i := by
  have hn := (p.legal_iff.1 h).2.1.1
  rw [Params.numKeys, ← List.take_length (l := p.positions), p.positions_length h] at hi
  obtain ⟨k, hk, hset, hcount⟩ := exists_set_of_lt_count_take p.positions hi
  refine ⟨k / p.nCols, k % p.nCols, (Nat.div_lt_iff_lt_mul hn).2 hk, Nat.mod_lt k hn, ?_, ?_⟩
  · rw [p.wired_divMod h, hset]
  · rw [Params.idx, Nat.div_add_mod', hcount]

/-- Settles O28: idx counts a prefix of the row-major list of positions, which DIR has no part in. -/
theorem bitIndexIsRowMajorRank : Obligations.BitIndexIsRowMajorRank := fun p h =>
  ⟨fun _ _ hr hc hw => ⟨p.idx_eq_card h hr hc, p.idx_lt h hc hw, fun _ _ _ hc' hw' => p.idx_inj h hc hc' hw hw'⟩,
    fun _ => p.exists_idx_eq h, fun _ _ _ => rfl⟩

/-! ### Where the lines meet (41_scan R102) -/

/-- Two pairs of lines that meet at one position are the same. -/
theorem Params.pos_inj (p : Params) {d j d' j' : Nat} (h : p.pos d j = p.pos d' j') : d = d' ∧ j = j' := by
  revert h
  unfold Params.pos
  cases p.dir with
  | rowsDrive => exact Prod.mk.inj
  | colsDrive => exact fun h => (Prod.mk.inj h).symm

/-- Every position of the matrix is where two lines meet. -/
theorem Params.exists_pos_eq (p : Params) {r c : Nat} (hr : r < p.nRows) (hc : c < p.nCols) :
    ∃ d j, d < p.numDrive ∧ j < p.numSense ∧ p.pos d j = (r, c) := by
  unfold Params.numDrive Params.numSense Params.pos
  cases p.dir with
  | rowsDrive => exact ⟨r, c, hr, hc, rfl⟩
  | colsDrive => exact ⟨c, r, hc, hr, rfl⟩

/-- Settles O29: DIR says which side drives, and either way the pair of lines is the position's row and column. -/
theorem linesMeetAtOnePosition : Obligations.LinesMeetAtOnePosition := by
  intro p
  refine ⟨fun hd => ?_, fun hd => ?_, fun r c hr hc => ?_⟩
  · simp [Params.numDrive, Params.numSense, Params.pos, hd]
  · simp [Params.numDrive, Params.numSense, Params.pos, hd]
  · obtain ⟨d, j, hd, hj, hpos⟩ := p.exists_pos_eq hr hc
    exact ⟨d, j, hd, hj, hpos, fun d' j' hpos' => p.pos_inj (hpos'.trans hpos.symm)⟩

end Sys2Proof
end

section
/-! PROOFS. A scan (41_scan): what its samples set in the accumulator and leave in the bitmap (R105, R106), and the
waveform of the drive pins (R110). -/

namespace Sys2Proof.Machine

/-! ### The bits a sample sets (41_scan R105) -/

/-- Sense line j reads low at a non-empty position of drive line d, and the position's index is i (R105). -/
def SensedLow (p : Params) (d : Nat) (lv : Levels) (i j : Nat) : Prop :=
  p.wired (p.pos d j).1 (p.pos d j).2 = true ∧ lv.getLsbD j = false ∧ p.idx (p.pos d j).1 (p.pos d j).2 = i

/-- A fold whose every step adds Q to what sets bit i: the bit is set at the start, or by one of the elements. -/
theorem getLsbD_foldl_iff {α : Type} {f : KeyBits → α → KeyBits} {i : Nat} {Q : α → Prop}
    (hstep : ∀ acc a, (f acc a).getLsbD i = true ↔ acc.getLsbD i = true ∨ Q a) (l : List α) (acc : KeyBits) :
    (l.foldl f acc).getLsbD i = true ↔ acc.getLsbD i = true ∨ ∃ a ∈ l, Q a := by
  induction l generalizing acc with
  | nil => simp
  | cons a l ih => rw [List.foldl_cons, ih, hstep, List.exists_mem_cons_iff, or_assoc]

/-- One sense check sets the bit of its position alone, and only when the line reads low there. -/
theorem getLsbD_senseCheck (p : Params) (d : Nat) (lv : Levels) {i : Nat} (hi : i < 1024) (acc : KeyBits) (j : Nat) :
    (senseCheck p d lv acc j).getLsbD i = true ↔ acc.getLsbD i = true ∨ SensedLow p d lv i j := by
  unfold senseCheck SensedLow
  split_ifs with h
  · rw [Bool.and_eq_true, Bool.not_eq_true'] at h
    simp [h, hi, eq_comm (a := i)]
  · exact ⟨.inl, fun hor => hor.resolve_right fun ⟨hw, hlow, _⟩ => h (by rw [hw, hlow]; rfl)⟩

theorem getLsbD_sampleUpdate (p : Params) (d : Nat) (lv : Levels) {i : Nat} (hi : i < 1024) (acc : KeyBits) :
    (sampleUpdate p d lv acc).getLsbD i = true ↔
      acc.getLsbD i = true ∨ ∃ j < p.numSense, SensedLow p d lv i j := by
  have h := getLsbD_foldl_iff (getLsbD_senseCheck p d lv hi) (List.range p.numSense) acc
  simpa only [sampleUpdate, List.mem_range] using h

/-- Settles O30: each sense check adds its own position, and the update is their fold. -/
theorem sampleUpdateSetsLowLines : Obligations.SampleUpdateSetsLowLines := fun p d lv acc _ _ _ hi =>
  getLsbD_sampleUpdate p d lv hi acc

/-! ### The bitmap after a scan (41_scan R106) -/

/-- The accumulator after a whole scan: what the samples of its lines have set. -/
theorem getLsbD_scanAcc (p : Params) (answer : Nat → Levels) {i : Nat} (hi : i < 1024) :
    (scanAcc p answer 0 p.numDrive 0).getLsbD i = true ↔
      ∃ d < p.numDrive, ∃ j < p.numSense, SensedLow p d (answer d) i j := by
  have h := getLsbD_foldl_iff (fun acc d => getLsbD_sampleUpdate p d (answer d) hi acc)
    (List.range' 0 p.numDrive) 0
  simpa [scanAcc, ← List.range_eq_range'] using h

/-- A non-empty position's line reads low where its index says so: no other position has that index (R101, R102). -/
theorem exists_sensedLow_iff (p : Params) (hl : p.legal = true) (answer : Nat → Levels) {d j : Nat}
    (hd : d < p.numDrive) (hj : j < p.numSense) (hw : p.wired (p.pos d j).1 (p.pos d j).2 = true) :
    (∃ d' < p.numDrive, ∃ j' < p.numSense, SensedLow p d' (answer d') (p.idx (p.pos d j).1 (p.pos d j).2) j')
      ↔ (answer d).getLsbD j = false := by
  constructor
  · rintro ⟨d', hd', j', hj', hw', hlow, hidx⟩
    obtain ⟨hr, hc⟩ := p.idx_inj hl (p.pos_bounds hd' hj').2 (p.pos_bounds hd hj).2 hw' hw hidx
    obtain ⟨rfl, rfl⟩ := p.pos_inj (Prod.ext hr hc)
    exact hlow
  · exact fun hlow => ⟨d, hd, j, hj, hw, hlow, rfl⟩

/-- A scan run to its end leaves its accumulator in the bitmap, whatever was there (R106). -/
theorem Block.runCommand_scan_bitmap (p : Params) (answer : Nat → Levels) (hl : p.legal = true) (b : Block) :
    (b.runCommand p answer .scan).bitmap = scanAcc p answer 0 p.numDrive 0 &&& p.keyMask := by
  rw [b.runCommand_scan p answer hl]
  rfl

/-- Settles O31: the bitmap is the accumulator below K, and an index below K is one position's. -/
theorem scanResultIsSensedLevels : Obligations.ScanResultIsSensedLevels := by
  intro p answer b hl
  refine ⟨fun d j hd hj hw => ?_, fun i hi => ?_⟩
  · have hK := p.idx_lt hl (p.pos_bounds hd hj).2 hw
    have h1024 := hK.trans_le (p.numKeys_le hl)
    rw [← exists_sensedLow_iff p hl answer hd hj hw, ← getLsbD_scanAcc p answer h1024]
    simp [Block.key, b.runCommand_scan_bitmap p answer hl, p.getLsbD_keyMask, hK, h1024]
  · rw [b.runCommand_scan_bitmap p answer hl]
    exact getLsbD_and_keyMask_of_ge p _ hi

/-! ### The waveform of the drive pins (41_scan R110) -/

/-- The settle wait holds the pins for as many steps as it counts, and one more before the sample step. -/
theorem Block.driveTrace_settle (p : Params) (answer : Nat → Levels) (n : Nat) :
    ∀ (k : Nat) (b : Block), b.phase = .settle → b.cnt.toNat = k →
      Block.driveTrace p answer (k + 1 + n) b = List.replicate (k + 1) b.drive
        ++ Block.driveTrace p answer n (({ b with cnt := 0 } : Block).sampleStep p (answer b.d))
  | 0, b, h, hk => by
    have hc : b.cnt = 0 := BitVec.eq_of_toNat_eq hk
    have hb : ({ b with cnt := 0 } : Block) = b := by rw [← hc]
    rw [show 0 + 1 + n = n + 1 by omega, Block.driveTrace, Block.seqStep_sample p _ h hc, hb]
    rfl
  | k + 1, b, h, hk => by
    have hc : b.cnt ≠ 0 := fun e => by rw [e] at hk; exact absurd hk (Nat.zero_ne_add_one k)
    have hfall : b.settleWait.cnt.toNat = k := by rw [Block.settleWait_cnt]; bv_omega
    rw [show k + 1 + 1 + n = k + 1 + n + 1 by omega, Block.driveTrace, Block.seqStep_wait p _ h hc,
      Block.driveTrace_settle p answer n k b.settleWait h hfall]
    rfl

/-- One drive line, from all lines high (R110): low for settle_l + 1 values, and what its sample step goes on with. -/
theorem Block.driveTrace_line (p : Params) (answer : Nat → Levels) (n : Nat) {b : Block} (h : b.phase = .assert)
    (hhigh : b.drive = allHigh) :
    Block.driveTrace p answer (b.settleL.toNat + 2 + n) b =
      allHigh :: (List.replicate (b.settleL.toNat + 1) (driveLow allHigh b.d)
        ++ Block.driveTrace p answer n (({ b.assertLine with cnt := 0 } : Block).sampleStep p (answer b.d))) := by
  rw [show b.settleL.toNat + 2 + n = b.settleL.toNat + 1 + n + 1 by omega, Block.driveTrace,
    Block.seqStep_assert p _ h, Block.driveTrace_settle p answer n b.settleL.toNat b.assertLine rfl rfl,
    ← hhigh]
  rfl

/-- What follows the sample of a line leaves the pins alone. -/
@[simp] theorem Block.afterSample_drive (p : Params) (b : Block) : (b.afterSample p).drive = b.drive := by
  unfold Block.afterSample
  split_ifs <;> rfl

/-- The sample step of a line that alone was made active leaves every line high (10_state R37). -/
theorem Block.sampleStep_assertLine_drive (p : Params) (lv : Levels) {b : Block} (hhigh : b.drive = allHigh) :
    (({ b.assertLine with cnt := 0 } : Block).sampleStep p lv).drive = allHigh := by
  rw [Block.sampleStep, Block.afterSample_drive, Block.takeSample_drive]
  show driveHigh (driveLow b.drive b.d) b.d = allHigh
  rw [hhigh, driveHigh_driveLow, driveHigh_allHigh]

/-- The rest of a scan from the ASSERT step of a line: one wave per line left (R110). -/
theorem Block.driveTrace_scan (p : Params) (answer : Nat → Levels) :
    ∀ (m : Nat) (b : Block), b.phase = .assert → b.drive = allHigh → b.d + (m + 1) = p.numDrive →
      Block.driveTrace p answer ((m + 1) * (b.settleL.toNat + 2)) b
        = allHigh :: (List.range' b.d (m + 1)).flatMap (lineWave b.settleL.toNat)
  | 0, b, h, hhigh, _ => by
    rw [Nat.zero_add, Nat.one_mul, ← Nat.add_zero (b.settleL.toNat + 2), Block.driveTrace_line p answer 0 h hhigh,
      Block.driveTrace, Block.sampleStep_assertLine_drive p _ hhigh, List.range'_one, List.flatMap_singleton]
    rfl
  | m + 1, b, h, hhigh, hn => by
    have hdrive := Block.sampleStep_assertLine_drive p (answer b.d) hhigh
    have hnext : ({ b.assertLine with cnt := 0 } : Block).sampleStep p (answer b.d) =
        { ({ b.assertLine with cnt := 0 } : Block).takeSample p (answer b.d) with d := b.d + 1, phase := .assert } :=
      if_pos (show b.d + 1 < p.numDrive by omega)
    have hrest := Block.driveTrace_scan p answer m
      (({ b.assertLine with cnt := 0 } : Block).sampleStep p (answer b.d)) (by rw [hnext]) hdrive
      (by rw [hnext, ← hn]; exact Nat.add_right_comm ..)
    rw [Nat.succ_mul, Nat.add_comm, Block.driveTrace_line p answer _ h hhigh, List.range'_succ, List.flatMap_cons,
      lineWave, List.append_assoc, List.singleton_append]
    rw [hnext] at hrest ⊢
    exact congrArg (fun w => allHigh :: (_ ++ w)) hrest

/-- Settles O33: an accepted scan is at the ASSERT step of line 0, with every line before it. -/
theorem scanDriveWaveform : Obligations.ScanDriveWaveform := by
  intro p answer b hl hhigh
  obtain ⟨m, hm⟩ := Nat.exists_eq_add_one.2 (p.numDrive_range hl).1
  rw [hm, List.range_eq_range']
  exact Block.driveTrace_scan p answer m (b.accept .scan) rfl hhigh (by rw [hm]; exact Nat.zero_add _)

end Sys2Proof.Machine
end

section
/-! PROOFS. ENCODE (42_encode): the classes of the keycodes (R121), the two frames byte by byte (R124 to R133), and the
one step of the command (R122). -/

namespace Sys2Proof.Machine

/-! ### Keycodes (42_encode R121) -/

theorem keyClass_eq_normal_iff (k : Byte) : keyClass k = .normal ↔ 0x04 ≤ k.toNat ∧ k.toNat ≤ 0xDD := by
  rw [keyClass_eq]
  split_ifs with hnormal <;> simp [hnormal]

theorem keyClass_eq_modifier_iff (k : Byte) : keyClass k = .modifier ↔ 0xE0 ≤ k.toNat ∧ k.toNat ≤ 0xE7 := by
  rw [keyClass_eq]
  split_ifs with hnormal hmodifier
  · simp
    omega
  · simp [hmodifier]
  · simp [hmodifier]

theorem keyClass_eq_ignored_iff (k : Byte) :
    keyClass k = .ignored ↔ k.toNat ≤ 0x03 ∨ k.toNat = 0xDE ∨ k.toNat = 0xDF ∨ 0xE8 ≤ k.toNat := by
  rw [keyClass_eq]
  split_ifs <;> simp <;> omega

/-- The mask of a keycode has the one bit that its low three bits number. -/
theorem modMask_eq_twoPow (k : Byte) : modMask k = BitVec.twoPow 8 (k.toNat % 8) := by
  rw [modMask, BitVec.twoPow_eq, BitVec.toNat_and]
  exact congrArg _ (Nat.and_two_pow_sub_one_eq_mod k.toNat 3)

theorem getLsbD_modMask (k : Byte) (n : Nat) : (modMask k).getLsbD n = decide (k.toNat % 8 = n) := by
  have h8 : k.toNat % 8 < 8 := Nat.mod_lt _ (by decide)
  simp [modMask_eq_twoPow, h8]

/-- Settles O34: each class is a union of ranges of keycodes, and the mask a power of two. -/
theorem keycodeClassification : Obligations.KeycodeClassification := fun k =>
  ⟨keyClass_eq_normal_iff k, keyClass_eq_modifier_iff k, keyClass_eq_ignored_iff k, fun n _ => getLsbD_modMask k n⟩

/-! ### What a walk over the keys adds up to -/

/-- `getLsbD_foldl_iff` for any property P of what a fold builds: it holds at the start, or an element makes it hold. -/
theorem foldl_iff {α β : Type} {f : β → α → β} {P : β → Prop} {Q : α → Prop}
    (hstep : ∀ acc a, P (f acc a) ↔ P acc ∨ Q a) (l : List α) (acc : β) :
    P (l.foldl f acc) ↔ P acc ∨ ∃ a ∈ l, Q a := by
  induction l generalizing acc with
  | nil => simp
  | cons a l ih => rw [List.foldl_cons, ih, hstep, List.exists_mem_cons_iff, or_assoc]

/-- A byte of the report gains the bit of a keycode's mask where the mask is ORed in, and nothing elsewhere. -/
theorem getLsbD_orReport_modMask (rb : Report) (k : Byte) {j : Nat} (hj : j < 36) (m n : Nat) :
    (reportByte (orReport rb j (modMask k)) m).getLsbD n = true ↔
      (reportByte rb m).getLsbD n = true ∨ k.toNat % 8 = n ∧ m = j := by
  rw [reportByte_orReport]
  by_cases hm : m = j <;> simp [hm, hj, getLsbD_modMask]

/-- A pressed key whose keycode is the Modifier of bit n (42_encode R126). -/
def Block.ModifierKey (p : Params) (l : BitVec 3) (b : Block) (n i : Nat) : Prop :=
  b.key p i = true ∧ keyClass (keycode p l i) = .modifier ∧ (keycode p l i).toNat % 8 = n

/-! ### The 6KRO frame (42_encode R123 to R125) -/

/-- A Modifier key adds its bit to byte 1; the Normal keys write behind it. -/
theorem sixKroKey_modifiers (p : Params) (l : BitVec 3) (b : Block) (n : Nat) (st : Report × Nat) (i : Nat) :
    (reportByte (sixKroKey p l b st i).1 1).getLsbD n = true ↔
      (reportByte st.1 1).getLsbD n = true ∨ b.ModifierKey p l n i := by
  unfold sixKroKey Block.ModifierKey
  split
  · split
    · split
      · simp [reportByte_putReport, show 1 ≠ 3 + st.2 by omega, *]
      · simp [*]
    · simp [getLsbD_orReport_modMask, *]
    · simp [*]
  · simp [*]

/-- A Normal key takes the next of the six slots, if one is left. -/
theorem sixKroKey_of_normal {p : Params} {l : BitVec 3} {b : Block} {i : Nat} (h : b.pressedAs p l .normal i = true)
    (st : Report × Nat) :
    sixKroKey p l b st i = if st.2 < 6 then (putReport st.1 (3 + st.2) (keycode p l i), st.2 + 1) else st := by
  obtain ⟨hkey, hcls⟩ : b.key p i = true ∧ keyClass (keycode p l i) = .normal := by
    simpa [Block.pressedAs] using h
  simp [sixKroKey, hkey, hcls]

/-- Any other key leaves the count of slots taken and every byte but the modifier byte alone. -/
theorem sixKroKey_of_not_normal {p : Params} {l : BitVec 3} {b : Block} {i : Nat}
    (h : ¬ b.pressedAs p l .normal i = true) (st : Report × Nat) {j : Nat} (hj : j ≠ 1) :
    (sixKroKey p l b st i).2 = st.2 ∧ reportByte (sixKroKey p l b st i).1 j = reportByte st.1 j := by
  unfold sixKroKey
  split
  · split
    · exact absurd (by simp [Block.pressedAs, *]) h
    · exact ⟨rfl, by rw [reportByte_orReport, if_neg (fun e => hj e.1)]⟩
    · exact ⟨rfl, rfl⟩
  · exact ⟨rfl, rfl⟩

/-- No key writes the reserved byte. -/
theorem sixKroKey_reserved (p : Params) (l : BitVec 3) (b : Block) (st : Report × Nat) (i : Nat) :
    reportByte (sixKroKey p l b st i).1 2 = reportByte st.1 2 := by
  by_cases hi : b.pressedAs p l .normal i = true
  · rw [sixKroKey_of_normal hi]
    split
    · rw [reportByte_putReport, if_neg (by omega)]
    · rfl
  · exact (sixKroKey_of_not_normal hi st (by decide)).2

/-- The walk keeps the slots already taken and fills the rest with the Normal keycodes in the order of the keys. -/
theorem sixKroWalk_slots (p : Params) (l : BitVec 3) (b : Block) {m : Nat} (hm : m < 6) (keys : List Nat)
    (st : Report × Nat) :
    reportByte (keys.foldl (sixKroKey p l b) st).1 (3 + m) =
      if m < st.2 then reportByte st.1 (3 + m)
      else ((keys.filter (b.pressedAs p l .normal)).map (keycode p l)).getD (m - st.2) (reportByte st.1 (3 + m)) := by
  induction keys generalizing st with
  | nil => simp
  | cons i keys ih =>
    rw [List.foldl_cons, ih]
    by_cases hi : b.pressedAs p l .normal i = true
    · rw [sixKroKey_of_normal hi, List.filter_cons_of_pos hi, List.map_cons]
      by_cases hfree : st.2 < 6
      · rw [if_pos hfree]
        obtain hlt | rfl | hgt := Nat.lt_trichotomy m st.2
        · simp [reportByte_putReport, hlt, hlt.ne, show m < st.2 + 1 by omega]
        · simp [reportByte_putReport, show 3 + st.2 < 36 by omega]
        · rw [reportByte_putReport, if_neg (by omega), if_neg (by omega), if_neg (by omega),
            show m - st.2 = m - (st.2 + 1) + 1 by omega, List.getD_cons_succ]
      · rw [if_neg hfree, if_pos (by omega), if_pos (by omega)]
    · obtain ⟨hcount, hslot⟩ := sixKroKey_of_not_normal hi st (show 3 + m ≠ 1 by omega)
      rw [hcount, hslot, List.filter_cons_of_neg hi]

/-- Bit n of the modifier byte (R124, R126). -/
theorem constructSixKro_modifiers (p : Params) (l : BitVec 3) (b : Block) (n : Nat) :
    (reportByte (constructSixKro p l b) 1).getLsbD n = true ↔ ∃ i < p.numKeys, b.ModifierKey p l n i := by
  have hwalk := foldl_iff (f := sixKroKey p l b) (P := fun st => (reportByte st.1 1).getLsbD n = true)
    (sixKroKey_modifiers p l b n) (List.range p.numKeys) (freshReport, 0)
  simpa [constructSixKro, reportByte_freshReport] using hwalk

theorem constructSixKro_reserved (p : Params) (l : BitVec 3) (b : Block) :
    reportByte (constructSixKro p l b) 2 = 0 := by
  rw [constructSixKro]
  refine List.foldlRecOn (motive := fun st => reportByte st.1 2 = 0) _ (sixKroKey p l b) ?_ fun st h i _ => ?_
  · simp [reportByte_freshReport]
  · rw [sixKroKey_reserved, h]

/-- The six slots (R125). -/
theorem constructSixKro_slots (p : Params) (l : BitVec 3) (b : Block) {n : Nat} (hn : n < 6) :
    reportByte (constructSixKro p l b) (3 + n) = (b.normalKeys p l).getD n 0x00 := by
  rw [constructSixKro, sixKroWalk_slots p l b hn, if_neg (Nat.not_lt_zero n), reportByte_freshReport, if_neg (by omega)]
  rfl

/-- Settles O35: the bytes a key can write, one after another; the rest are those of the fresh buffer. -/
theorem sixKroFrameLayout : Obligations.SixKroFrameLayout := by
  intro p l b
  obtain ⟨hid, hzero⟩ := constructSixKro_form p l b
  exact ⟨hid, fun n _ => constructSixKro_modifiers p l b n, constructSixKro_reserved p l b,
    fun n hn => constructSixKro_slots p l b hn, hzero⟩

/-! ### The NKRO frame (42_encode R127 to R129) -/

/-- The pressed key i sets bit n of byte j of the NKRO frame: its class says which byte (R128). -/
def Block.NkroSets (p : Params) (l : BitVec 3) (b : Block) (j n i : Nat) : Prop :=
  b.key p i = true ∧ (keycode p l i).toNat % 8 = n
    ∧ (keyClass (keycode p l i) = .modifier ∧ j = 1
      ∨ keyClass (keycode p l i) = .normal ∧ j = (keycode p l i).toNat / 8 + 2)

theorem nkroKey_bits (p : Params) (l : BitVec 3) (b : Block) (j n : Nat) (rb : Report) (i : Nat) :
    (reportByte (nkroKey p l b rb i) j).getLsbD n = true ↔
      (reportByte rb j).getLsbD n = true ∨ b.NkroSets p l j n i := by
  unfold nkroKey Block.NkroSets
  split
  · split
    · have hrange := nkroByte_range _ ‹_›
      rw [getLsbD_orReport_modMask _ _ (by omega), BitVec.toNat_ushiftRight, Nat.shiftRight_eq_div_pow]
      simp [*]
    · simp [getLsbD_orReport_modMask, *]
    · simp [*]
  · simp [*]

theorem constructNkro_bits (p : Params) (l : BitVec 3) (b : Block) {j : Nat} (hj : j ≠ 0) (n : Nat) :
    (reportByte (constructNkro p l b) j).getLsbD n = true ↔ ∃ i < p.numKeys, b.NkroSets p l j n i := by
  have hwalk := foldl_iff (f := nkroKey p l b) (P := fun rb => (reportByte rb j).getLsbD n = true)
    (nkroKey_bits p l b j n) (List.range p.numKeys) freshReport
  simpa [constructNkro, reportByte_freshReport, hj] using hwalk

/-- Bit n of the modifier byte (R126, R127): the presence bytes of Normal keycodes stand behind it. -/
theorem constructNkro_modifiers (p : Params) (l : BitVec 3) (b : Block) (n : Nat) :
    (reportByte (constructNkro p l b) 1).getLsbD n = true ↔ ∃ i < p.numKeys, b.ModifierKey p l n i := by
  rw [constructNkro_bits p l b one_ne_zero]
  simp [Block.NkroSets, Block.ModifierKey, and_comm]

/-- The presence bit of keycode k (R127, R129): byte and bit number together say which Normal keycode set it. -/
theorem constructNkro_presence (p : Params) (l : BitVec 3) (b : Block) (k : Nat) :
    (reportByte (constructNkro p l b) (k / 8 + 2)).getLsbD (k % 8) = true ↔
      0x04 ≤ k ∧ k ≤ 0xDD ∧ ∃ i, i < p.numKeys ∧ b.key p i = true ∧ (keycode p l i).toNat = k := by
  rw [constructNkro_bits p l b (by omega)]
  constructor
  · rintro ⟨i, hi, hkey, hbit, ⟨-, hbyte⟩ | ⟨hcls, hbyte⟩⟩
    · omega
    · have hcode : (keycode p l i).toNat = k := by omega
      obtain ⟨hlo, hhi⟩ := (keyClass_eq_normal_iff _).1 hcls
      exact ⟨hcode ▸ hlo, hcode ▸ hhi, i, hi, hkey, hcode⟩
  · rintro ⟨hlo, hhi, i, hi, hkey, rfl⟩
    exact ⟨i, hi, hkey, rfl, .inr ⟨(keyClass_eq_normal_iff _).2 ⟨hlo, hhi⟩, rfl⟩⟩

/-- Settles O36: what sets each bit of the frame; the rest is the fresh buffer's. -/
theorem nkroFrameLayout : Obligations.NkroFrameLayout := by
  intro p l b
  obtain ⟨hid, hzero⟩ := constructNkro_form p l b
  exact ⟨hid, fun n _ => constructNkro_modifiers p l b n, fun k _ => constructNkro_presence p l b k, hzero⟩

/-! ### Both forms (42_encode R126, R133) -/

/-- Settles O37: in both forms a bit of byte 1 is set by the same keys. -/
theorem modifierByteSameInBothForms : Obligations.ModifierByteSameInBothForms := fun p l b =>
  BitVec.eq_of_getLsbD_eq fun n _ => Bool.eq_iff_iff.2 <|
    (constructSixKro_modifiers p l b n).trans (constructNkro_modifiers p l b n).symm

/-- With no key pressed a walk leaves the fresh buffer. -/
theorem construct_of_no_key {p : Params} (l : BitVec 3) {b : Block} (h : ∀ i, b.key p i = false) :
    constructSixKro p l b = freshReport ∧ constructNkro p l b = freshReport := by
  constructor
  · rw [constructSixKro, List.foldl_fixed' fun i => by simp [sixKroKey, h]]
  · exact List.foldl_fixed' (fun i => by simp [nkroKey, h]) _

/-- Settles O38: no key is pressed, for a key is a bitmap bit below K. -/
theorem emptyBitmapFrames : Obligations.EmptyBitmapFrames := by
  intro p l b hempty j
  have hnone : ∀ i, b.key p i = false := fun i => by simpa [Block.key] using hempty i
  obtain ⟨hsix, hnkro⟩ := construct_of_no_key l hnone
  rw [hsix, hnkro]
  exact ⟨reportByte_freshReport j, reportByte_freshReport j⟩

/-- Settles O40: key by key, both walks see only whether the key is pressed and its keycode. -/
theorem encoderIsPure : Obligations.EncoderIsPure := by
  intro p q l m b c hK hcode hbits
  have hkey : ∀ i ∈ List.range p.numKeys, b.key p i = c.key q i ∧ keycode p l i = keycode q m i := fun i hi => by
    have hi := List.mem_range.1 hi
    exact ⟨by rw [Block.key, Block.key, hK, hbits i hi], hcode i hi⟩
  constructor
  · rw [constructSixKro, constructSixKro, ← hK]
    refine congrArg _ (List.foldl_ext _ _ _ fun st i hi => ?_)
    rw [sixKroKey, sixKroKey, (hkey i hi).1, (hkey i hi).2]
  · rw [constructNkro, constructNkro, ← hK]
    refine List.foldl_ext _ _ _ fun rb i hi => ?_
    rw [nkroKey, nkroKey, (hkey i hi).1, (hkey i hi).2]

/-! ### The command (42_encode R122) -/

/-- Settles O39: acceptance puts the block at its ENC step and touches nothing the frame depends on. -/
theorem encodeRunsInOneStep : Obligations.EncodeRunsInOneStep := by
  intro p answer b
  obtain ⟨hsix, hnkro⟩ :=
    encoderIsPure p p b.layer b.layer (b.accept .encode) b rfl (fun _ _ => rfl) fun _ _ => rfl
  rw [Block.runCommand, Block.stepsLeft_accept, ← hsix, ← hnkro]
  calc Block.runSeq p answer 1 (b.accept .encode)
      = (b.accept .encode).seqStep p (answer b.d) := rfl
    _ = ((b.accept .encode).encodeReport p).finish := (b.accept .encode).seqStep_enc p _ rfl
    _ = _ := by rw [Block.encodeReport_eq]; rfl

end Sys2Proof.Machine
end

section
/-! PROOFS. SCAN_ENCODE beside SCAN and then ENCODE (43_scan_encode R141). -/

namespace Sys2Proof.Machine

/-- SCAN_ENCODE's last step is an ENC step (40_command R91). -/
theorem Block.runSeq_accept_scanEncode_phase (p : Params) (answer : Nat → Levels) (hl : p.legal = true) (b : Block) :
    (Block.runSeq p answer (p.numDrive * (b.settle.toNat + 2)) (b.accept .scanEncode)).phase = .enc := by
  rw [Block.runSeq_accept_scan p answer hl b (op := .scanEncode) nofun]
  rfl

/-- An ENCODE accepted after SCAN stands at the ENC step of SCAN_ENCODE, but for op_l and for the DONE that SCAN has
raised. -/
theorem Block.accept_encode_runCommand_scan (p : Params) (answer : Nat → Levels) (hl : p.legal = true) (b : Block) :
    (b.runCommand p answer .scan).accept .encode =
      { Block.runSeq p answer (p.numDrive * (b.settle.toNat + 2)) (b.accept .scanEncode) with
        opL := .encode, done := true } := by
  rw [b.runCommand_scan p answer hl, Block.runSeq_accept_scan p answer hl b (op := .scanEncode) nofun]
  rfl

/-- An ENC step hides op_l and DONE: the frame depends on neither, and the step leaves the block idle with DONE set
(10_state R35, 40_command R90). -/
theorem Block.observable_seqStep_enc (p : Params) (lv lv' : Levels) {b c : Block} {op : Op} {done : Bool}
    (h : b.phase = .enc) (hc : c = { b with opL := op, done := done }) :
    (b.seqStep p lv).observable = (c.seqStep p lv').observable := by
  have hphase : c.phase = .enc := by rw [hc, h]
  obtain ⟨hsix, hnkro⟩ := encoderIsPure p p b.layerL b.layerL b c rfl (fun _ _ => rfl) fun _ _ => by rw [hc]
  rw [b.seqStep_enc p lv h, c.seqStep_enc p lv' hphase, b.encodeReport_eq, c.encodeReport_eq, hsix, hnkro]
  subst hc
  rfl

/-- Settles O41: both end in the same ENC step, op_l and DONE apart; only the pair finishes before it. -/
theorem scanEncodeEqualsScanThenEncode : Obligations.ScanEncodeEqualsScanThenEncode := by
  intro p answer answer' b hl
  have hscan := (b.accept_runs p hl .scan).runSeq_finishes answer
  refine ⟨?_, hscan.busy, hscan.done, fun k hk => ((b.accept_runs p hl .scanEncode).runSeq answer hk).1.busy⟩
  have henc := b.runSeq_accept_scanEncode_phase p answer hl
  have hpair := b.accept_encode_runCommand_scan p answer hl
  rw [Block.runCommand, Block.stepsLeft_accept, Block.runSeq_add, Block.runCommand, Block.stepsLeft_accept]
  exact Block.observable_seqStep_enc p _ _ henc hpair

end Sys2Proof.Machine
end

section
/-! PROOFS. The interrupt output and the absence of traps (60_exceptions R150, R155), and a stopped clock (R163). -/

namespace Sys2Proof.Machine

/-! ### A stopped clock (60_exceptions R163, log 9) -/

/-- A pin moves only by a supplied turn: the free choice is between the two agents (log 5). -/
theorem State.turns_of_nextTurn_pin {s : State} {u : Turn} (hpin : u.isAgent = false) (h : s.nextTurn = some u) :
    ∃ rest, s.env.turns = u :: rest := by
  cases ht : s.env.turns with
  | cons w rest =>
    rw [(State.nextTurn_cons ht).1] at h
    cases h
    exact ⟨rest, rfl⟩
  | nil =>
    rw [State.nextTurn_nil ht] at h
    split at h <;> cases h
    · split at hpin <;> cases hpin
    · cases hpin
    · cases hpin

/-- With the clock stopped the sequencer lets its turn pass. -/
theorem takeTurn_sequencer_stopped {s : State} (hc : s.env.clkOn = false) : takeTurn .sequencer s = .next s := by
  rw [takeTurn_sequencer, if_neg]
  rintro ⟨-, -, hon⟩
  exact Bool.false_ne_true (hc.symm.trans hon)

/-- Settles O46: of all a step can do, the sequencer's step needs the clock and a host write the open port. -/
theorem stoppedClockHoldsTheBlock : Obligations.StoppedClockHoldsTheBlock := by
  intro s t hc hr h
  obtain hsame | ⟨hturn, hreset⟩ | ⟨hturn, -⟩ | ⟨a, v, -, -, hopen, -⟩ := step_cases hr h
  · exact .inl hsame
  · exact .inr ⟨State.turns_of_nextTurn_pin rfl hturn, hreset⟩
  · rw [step_of_turn (legal_of_step_next h) hr hturn, takeTurn_sequencer_stopped (by simpa using hc)] at h
    cases h
    exact .inl s.useTurn_blk
  · simp [Env.portOpen, hc] at hopen

/-! ### No step stops (60_exceptions R150) -/

/-- Every turn goes on: the host's because its lines are plain, the others always. -/
theorem takeTurn_goesOn (u : Turn) {s : State} (h : s.env.host.ok = true) : ∃ t, takeTurn u s = .next t := by
  cases u with
  | host => exact hostStep_goesOn h
  | sequencer | assertRst | releaseRst | stopClk | startClk => exact ⟨_, rfl⟩

/-- On a legal elaboration a step beside a host of plain lines goes on. -/
theorem step_goesOn {s : State} (hl : s.params.legal = true) (h : s.env.host.ok = true) : ∃ t, step s = .next t := by
  rw [step_of_legal hl, runStep]
  cases s.holdReset.nextTurn with
  | none => exact ⟨_, rfl⟩
  | some u => exact takeTurn_goesOn u (by simpa using h)

/-- Settles O50: a step goes on, and leaves the parameters and the program, on which plainness depends alone. -/
theorem stepsGoOn : Obligations.StepsGoOn := by
  intro s hl hok
  obtain ⟨t, ht⟩ := step_goesOn hl hok
  obtain ⟨hparams, -, hprog⟩ := step_next ht
  exact ⟨t, ht, hparams, hprog, (HostAgent.ok_of_prog hprog).trans hok⟩

/-! ### The interrupt output (60_exceptions R155) -/

/-- irq after a STATUS write: bit 1 masks DONE (10_state R29). -/
theorem Block.irq_clearFlags (b : Block) (v : Word) : (b.clearFlags v).irq = (b.irq && !v.getLsbD 1) :=
  (Bool.and_assoc b.ie b.done _).symm

/-- irq after a CTRL write: bit 8 is the new IE (10_state R26). -/
theorem Block.irq_writeCtrl (p : Params) (b : Block) (v : Word) : (b.writeCtrl p v).irq = (v.getLsbD 8 && b.done) := rfl

/-- irq after a command's end: DONE is set (40_command R90). -/
theorem Block.irq_finish (b : Block) : b.finish.irq = b.ie := Bool.and_true b.ie

/-- Settles O42: irq reads IE and DONE alone, and each operation by what it does to those two. -/
theorem interruptIsLevel : Obligations.InterruptIsLevel := by
  intro p b v
  refine ⟨rfl, rfl, rfl, fun hclear => ?_, fun hdisable => ?_, fun hdone henable => ?_, b.irq_finish⟩
  · rw [Block.irq_clearFlags, hclear, Bool.not_true, Bool.and_false]
  · rw [Block.irq_writeCtrl, hdisable, Bool.false_and]
  · rw [Block.irq_writeCtrl, hdone, henable, Bool.and_self]

end Sys2Proof.Machine
end

section
/-! PROOFS. Reset (70_reset_and_hazards R170 to R172): its assertion, and what a held reset leaves to the agents. -/

namespace Sys2Proof.Machine

/-- Settles O44: the supplied turn is `assertReset`, which overwrites the block whatever it was. -/
theorem resetAbandonsTheCommand : Obligations.ResetAbandonsTheCommand := fun _ _ hl ht =>
  step_of_given_turn hl ht

/-- A held reset closes the bus port (R172, log 8). -/
theorem Env.portOpen_of_rst {e : Env} (hr : e.rst = true) : e.portOpen = false := by
  simp [Env.portOpen, hr]

/-- A command word that meets a closed port has no effect (R172; log 8, log 9). -/
theorem exec_closed (i : Instr) {s : State} (ho : s.env.portOpen = false) : exec i s = .next s := by
  have hstart : ∀ op, startCommand op s = .next s := fun op => if_neg (by simp [ho])
  have hreserved : reservedCommand s = .next s := if_neg (by simp [ho])
  cases i with
  | nop => rfl
  | scan => exact hstart .scan
  | encode => exact hstart .encode
  | scanEncode => exact hstart .scanEncode
  | reserved0407 | reserved080F | reserved101F | reserved203F | reserved407F | reserved80FF => exact hreserved

/-- A host at a bus line lets its turn pass while the port is closed (R172). -/
theorem hostStep_waits {line : HostLine} {s : State} (ho : s.env.portOpen = false)
    (hline : s.env.host.current = some line) (hbus : line.isBus = true) : hostStep s = .next s := by
  simp [hostStep, hline, hbus, ho]

/-- While `rst = 1` a turn leaves the reset block: the port is closed, the sequencer has no step, and only the release
of `rst` is left to the pins (R170). -/
theorem takeTurn_blk_of_rst {u : Turn} {s t : State} (hr : s.env.rst = true) (hb : s.blk = Block.reset s.params)
    (h : takeTurn u s = .next t) : t.blk = Block.reset s.params := by
  cases u with
  | host =>
    obtain h | ⟨a, v, -, hopen, -⟩ := hostStep_blk h
    · rw [h, hb]
    · rw [Env.portOpen_of_rst hr] at hopen; cases hopen
  | sequencer =>
    rw [takeTurn_sequencer, if_neg (by simp [hr])] at h
    cases h; exact hb
  | assertRst => cases h; rfl
  | releaseRst | stopClk | startClk => cases h; exact hb

/-- Only the host's own turn moves the host. -/
theorem takeTurn_host_of_ne {u : Turn} {s t : State} (hu : u ≠ .host) (h : takeTurn u s = .next t) :
    t.env.host = s.env.host := by
  cases u with
  | host => exact absurd rfl hu
  | sequencer => cases h; split <;> simp
  | assertRst | releaseRst | stopClk | startClk => cases h; rfl

/-- While the port is closed, no turn moves a host at a bus line (R172). -/
theorem takeTurn_host_waits {u : Turn} {line : HostLine} {s t : State} (ho : s.env.portOpen = false)
    (hline : s.env.host.current = some line) (hbus : line.isBus = true) (h : takeTurn u s = .next t) :
    t.env.host = s.env.host := by
  by_cases hu : u = .host
  · subst hu
    cases (hostStep_waits ho hline hbus).symm.trans h
    rfl
  · exact takeTurn_host_of_ne hu h

/-- A step takes a turn from the held state, or has none to take (R170). -/
theorem step_taken {s t : State} (h : step s = .next t) :
    t = s.holdReset ∨ ∃ u, takeTurn u s.holdReset.useTurn = .next t := by
  rw [step_of_legal (legal_of_step_next h), runStep] at h
  split at h
  · exact .inr ⟨_, h⟩
  · cases h; exact .inl rfl

/-- Settles O45: the step starts from the block held in reset, and no turn leaves it. -/
theorem resetHoldsTheBlock : Obligations.ResetHoldsTheBlock := by
  intro s t hr h
  have hheld : s.holdReset.blk = Block.reset s.params := by rw [s.holdReset_blk, if_pos hr]
  have hcommand (i : Instr) : exec i s = .next s := exec_closed i (Env.portOpen_of_rst hr)
  obtain rfl | ⟨u, hu⟩ := step_taken h
  · exact ⟨hheld, fun _ => by rw [s.holdReset_env], hcommand⟩
  · have hrst : s.holdReset.useTurn.env.rst = true := by simpa using hr
    refine ⟨by simpa using takeTurn_blk_of_rst hrst (by simpa using hheld) hu, ?_, hcommand⟩
    rintro ⟨line, hline, hbus⟩
    simpa using takeTurn_host_waits (Env.portOpen_of_rst hrst) (by simpa using hline) hbus hu

end Sys2Proof.Machine
end

section
/-! PROOFS. Waiting for a command (70_reset_and_hazards R183): on a run without reset and with the clock running, a
command ends, and so does a host's WAITIDLE loop. -/

namespace Sys2Proof.Machine

/-! ### One step, by the agent that moves (20_memory R60) -/

/-- Out of reset and clocked: neither reset nor a stopped clock keeps an agent from its turn. -/
structure Env.Live (e : Env) : Prop where
  rst : e.rst = false
  clk : e.clkOn = true

/-- Everything a step between two live states can be. -/
inductive AgentStep (s t : State) : Prop where
  /-- the host performs its next line -/
  | host (turn : s.nextTurn = some .host) (taken : hostStep s.useTurn = .next t)
  /-- the sequencer makes its step (40_command R90) -/
  | sequencer (lv : Levels) (moves : s.sequencerMoves = true) (blk : t.blk = s.blk.seqStep s.params lv)
    (host : t.env.host = s.env.host)
  /-- neither moves -/
  | pass (turn : s.nextTurn ≠ some .host) (rests : s.sequencerMoves = false) (blk : t.blk = s.blk)
    (host : t.env.host = s.env.host)

/-- On another's turn the sequencer does not move. -/
theorem State.rests_of_turn {s : State} (h : s.nextTurn ≠ some .sequencer) : s.sequencerMoves = false := by
  simp [State.sequencerMoves, h]

/-- A step between two live states is one agent's, or leaves block and host: no pin moves that either sees. -/
theorem step_agent {s t : State} (hs : s.env.Live) (ht : t.env.Live) (h : step s = .next t) : AgentStep s t := by
  obtain ⟨hnone, rfl⟩ | ⟨u, hturn, hu⟩ := step_out_of_reset hs.rst h
  · exact .pass (by simp [hnone]) (State.rests_of_turn (by simp [hnone])) rfl rfl
  · cases u with
    | host => exact .host hturn hu
    | sequencer =>
      cases he : s.sequencerEnabled with
      | true =>
        rw [takeTurn, s.useTurn_sequencerEnabled, he] at hu
        cases hu
        exact .sequencer s.useTurn.env.sample (by simp [State.sequencerMoves, hturn, he]) (by simp) (by simp)
      | false =>
        rw [takeTurn, s.useTurn_sequencerEnabled, he] at hu
        cases hu
        exact .pass (by simp [hturn]) (by simp [State.sequencerMoves, he]) s.useTurn_blk s.useTurn_host
    | assertRst => cases hu; cases ht.rst
    | releaseRst | stopClk | startClk =>
      cases hu
      exact .pass (by simp [hturn]) (State.rests_of_turn (by simp [hturn])) s.useTurn_blk s.useTurn_host

/-! ### A running command ends (40_command R91, R92) -/

/-- BUSY under the invariant is a running command (R35). -/
theorem State.Inv.runs {s : State} (hi : s.Inv) (hb : s.blk.busy = true) : s.blk.Runs s.params :=
  ⟨hb, hi.blk.busy.1 hb, hi.blk.phase⟩

/-- The steps the running command has left on this machine (R91). -/
def State.stepsLeft (s : State) : Nat := s.blk.stepsLeft s.params

/-- A step of a running command leaves it alone, or is the sequencer's: it takes one off the steps left, and the
command runs on or has finished. -/
theorem step_running {s t : State} (hi : s.Inv) (hs : s.env.Live) (ht : t.env.Live) (hb : s.blk.busy = true)
    (h : step s = .next t) :
    (s.sequencerMoves = false ∧ t.blk.busy = true ∧ t.stepsLeft = s.stepsLeft)
      ∨ (s.sequencerMoves = true ∧ t.stepsLeft + 1 = s.stepsLeft ∧ (t.blk.busy = true ∨ t.blk.Finished)) := by
  have hruns := hi.runs hb
  rw [State.stepsLeft, State.stepsLeft, (step_next h).1]
  cases step_agent hs ht h with
  | host turn taken =>
    have hsame := hostStep_sameCommand (by simpa using hb) taken
    rw [s.useTurn_blk] at hsame
    exact .inl ⟨State.rests_of_turn (by simp [turn]), hsame.busy_eq.trans hb, hsame.stepsLeft_eq _⟩
  | sequencer lv moves blk =>
    rw [blk]
    exact .inr ⟨moves, sequencerCountsDown s.params lv s.blk hruns.agrees hruns.phase,
      (hruns.seqStep lv).imp_left Block.Runs.busy⟩
  | pass _ rests blk => exact .inl ⟨rests, by rw [blk, hb], by rw [blk]⟩

section
variable {r : Nat → State} (hrun : IsRun r) (hinv : (r 0).Inv)
include hrun hinv

/-- A run from a state with the invariant keeps it. -/
theorem IsRun.inv (k : Nat) : (r k).Inv := by
  induction k with
  | zero => exact hinv
  | succ k ih => exact stepKeepsInvariant _ _ ih (hrun k)

variable (hlive : ∀ k, (r k).env.Live)
include hlive

/-- While the command runs, the steps the sequencer has made and those it has left add up to those it had (R91). -/
theorem IsRun.moves_add_stepsLeft {n : Nat} (hbusy : ∀ k, k < n → (r k).blk.busy = true) :
    (List.range n).countP (fun k => (r k).sequencerMoves) + (r n).stepsLeft = (r 0).stepsLeft := by
  induction n with
  | zero => simp
  | succ n ih =>
    have ih := ih fun k hk => hbusy k (by omega)
    rw [List.range_succ, List.countP_append, List.countP_singleton]
    obtain ⟨hrests, -, hleft⟩ | ⟨hmoves, hleft, -⟩ :=
      step_running (hrun.inv hinv n) (hlive n) (hlive (n + 1)) (hbusy n (by omega)) (hrun n)
    · rw [hrests, if_neg Bool.false_ne_true]; omega
    · rw [if_pos hmoves]; omega

/-- A fair run is not busy for ever: every fair turn of the sequencer takes a step off (R183). -/
theorem IsRun.exists_idle (hfair : WeaklyFair r) : ∃ n, ¬ (r n).blk.busy = true := by
  by_contra hnever
  have hbusy : ∀ k, (r k).blk.busy = true := by simpa using hnever
  have hcan : ∀ k, (r k).sequencerEnabled = true := fun k =>
    (State.sequencerEnabled_iff _).2 ⟨((hrun.inv hinv k).runs (hbusy k)).phase, (hlive k).rst, (hlive k).clk⟩
  have hstep := fun k => step_running (hrun.inv hinv k) (hlive k) (hlive (k + 1)) (hbusy k) (hrun k)
  have hanti : Antitone fun k => (r k).stepsLeft := antitone_nat_of_succ_le fun k => by
    obtain ⟨-, -, hleft⟩ | ⟨-, hleft, -⟩ := hstep k <;> omega
  have hfalls : ∀ k, ∃ j, (r j).stepsLeft < (r k).stepsLeft := fun k => by
    obtain ⟨j, hj, hmoves⟩ := hfair k fun j _ => hcan j
    have hle : (r j).stepsLeft ≤ (r k).stepsLeft := hanti hj
    obtain ⟨hrests, -⟩ | ⟨-, hleft, -⟩ := hstep j
    · rw [hmoves] at hrests; cases hrests
    · exact ⟨j + 1, by omega⟩
  obtain ⟨j, hj⟩ := hfalls (Function.argmin fun k => (r k).stepsLeft)
  exact Function.not_lt_argmin (fun k => (r k).stepsLeft) j hj

end

/-- What holds at first and not for ever holds up to some last step. -/
theorem exists_last_before {P : Nat → Prop} (hfirst : P 0) (hends : ∃ n, ¬ P n) :
    ∃ n, (∀ k, k ≤ n → P k) ∧ ¬ P (n + 1) := by
  classical
  obtain ⟨m, hm, hbefore⟩ := Nat.findX hends
  cases m with
  | zero => exact absurd hfirst hm
  | succ n => exact ⟨n, fun k hk => not_not.1 (hbefore k (by omega)), hm⟩

/-- Settles O59: the last busy state makes the finishing step, when the sequencer's steps add up to those it had. -/
theorem fairRunsFinishCommands : Obligations.FairRunsFinishCommands := by
  intro r hrun hfair hinv hstart hpins
  have hlive : ∀ k, (r k).env.Live := fun k => ⟨(hpins k).1, (hpins k).2⟩
  obtain ⟨n, hbusy, hidle⟩ := exists_last_before hstart (hrun.exists_idle hinv hlive hfair)
  have hcount := hrun.moves_add_stepsLeft hinv hlive (n := n + 1) fun k hk => hbusy k (by omega)
  have hstep := step_running (hrun.inv hinv n) (hlive n) (hlive (n + 1)) (hbusy n le_rfl) (hrun n)
  obtain ⟨-, h, -⟩ | ⟨-, -, h | hfin⟩ := hstep
  · exact absurd h hidle
  · exact absurd h hidle
  · have hnone : (r (n + 1)).stepsLeft = 0 := Block.stepsLeft_idle _ hfin.phase
    rw [hnone] at hcount
    exact ⟨n, hbusy, hfin.busy, hfin.done, hcount⟩

/-! ### The WAITIDLE loop (30_encoding R76) -/

/-- The WAITIDLE lines stand in the program from line i on, with label w and temporary t. -/
structure HostAgent.HasWaitIdle (h : HostAgent) (i w t : Nat) : Prop where
  label : h.prog[i]? = some (.label w)
  read : h.prog[i + 1]? = some (.rd 0x010 t)
  branch : h.prog[i + 2]? = some (.bnz t 0x1 w)
  target : h.labelLine w = some i

/-- The host is in its WAITIDLE lines; at the branch, a temporary whose bit 0 is clear was read from an idle block,
and the block still is idle. -/
structure State.AtWaitIdle (s : State) (i w t : Nat) : Prop where
  inv : s.Inv
  lines : s.env.host.HasWaitIdle i w t
  lower : i ≤ s.env.host.line
  upper : s.env.host.line < i + 3
  seen : s.env.host.line = i + 2 → tempGet s.env.host.temps t &&& 0x1 = 0 → s.blk.busy = false

/-- What the host's turn does in the WAITIDLE lines, line by line. -/
inductive WaitMove (i t : Nat) (s u : State) : Prop where
  /-- past the label -/
  | label (line : s.env.host.line = i) (next : u.env.host.line = i + 1)
  /-- STATUS read: bit 0 is BUSY -/
  | read (line : s.env.host.line = i + 1) (next : u.env.host.line = i + 2)
    (value : tempGet u.env.host.temps t &&& 0x1 = 0 ↔ s.blk.busy = false)
  /-- back to the label: BUSY was read as 1 -/
  | again (line : s.env.host.line = i + 2) (value : tempGet s.env.host.temps t &&& 0x1 ≠ 0)
    (next : u.env.host.line = i)
  /-- out of the loop: BUSY was read as 0 -/
  | leave (line : s.env.host.line = i + 2) (value : tempGet s.env.host.temps t &&& 0x1 = 0)
    (next : u.env.host.line = i + 3)

/-- Bit 0 of STATUS is BUSY (10_state R28). -/
theorem Block.statusWord_and_one (b : Block) : b.statusWord &&& 0x1 = 0 ↔ b.busy = false := by
  have hbit : b.statusWord &&& 1#32 = (BitVec.ofBool (b.statusWord.getLsbD 0)).setWidth 32 :=
    BitVec.and_one_eq_setWidth_ofBool_getLsbD
  rw [show (0x1 : Word) = 1#32 from rfl, hbit, b.getLsbD_statusWord, if_pos rfl]
  cases b.busy <;> decide

/-- A step out of reset uses up the turn supplied for it. -/
theorem step_turns {s u : State} (hr : s.env.rst = false) (h : step s = .next u) :
    u.env.turns = s.env.turns.tail := by
  obtain ⟨hnone, rfl⟩ | ⟨v, -, hv⟩ := step_out_of_reset hr h
  · cases ht : u.env.turns with
    | nil => rfl
    | cons v rest => rw [(State.nextTurn_cons ht).1] at hnone; cases hnone
  · rw [(takeTurn_schedule hv).1, State.useTurn]
    cases ht : s.env.turns with
    | nil => dsimp only; split <;> simp [ht]
    | cons v rest => rfl

section
variable {s u : State} {i w t : Nat}

/-- A program keeps its WAITIDLE lines. -/
theorem HostAgent.HasWaitIdle.of_prog {h k : HostAgent} (hw : h.HasWaitIdle i w t) (hp : k.prog = h.prog) :
    k.HasWaitIdle i w t := by
  obtain ⟨hlabel, hread, hbranch, htarget⟩ := hw
  exact ⟨hp ▸ hlabel, hp ▸ hread, hp ▸ hbranch, by rwa [HostAgent.labelLine, hp]⟩

/-- The host stands at one of the three lines. -/
theorem State.AtWaitIdle.line_cases (h : s.AtWaitIdle i w t) :
    (s.env.host.line = i ∧ s.env.host.current = some (.label w))
      ∨ (s.env.host.line = i + 1 ∧ s.env.host.current = some (.rd 0x010 t))
      ∨ (s.env.host.line = i + 2 ∧ s.env.host.current = some (.bnz t 0x1 w)) := by
  have hlower := h.lower
  have hupper := h.upper
  unfold HostAgent.current
  obtain hl | hl | hl : s.env.host.line = i ∨ s.env.host.line = i + 1 ∨ s.env.host.line = i + 2 := by omega
  all_goals rw [hl]
  · exact .inl ⟨rfl, h.lines.label⟩
  · exact .inr (.inl ⟨rfl, h.lines.read⟩)
  · exact .inr (.inr ⟨rfl, h.lines.branch⟩)

/-- The host can move in its WAITIDLE lines, the port being open. -/
theorem State.AtWaitIdle.hostEnabled (h : s.AtWaitIdle i w t) (hs : s.env.Live) : s.hostEnabled = true := by
  have hopen := Env.portOpen_of hs.rst hs.clk
  obtain ⟨-, hline⟩ | ⟨-, hline⟩ | ⟨-, hline⟩ := h.line_cases <;> simp [State.hostEnabled, hline, hopen]

/-- The host's turn in the WAITIDLE lines leaves the block. -/
theorem State.AtWaitIdle.host_turn (h : s.AtWaitIdle i w t) (hs : s.env.Live)
    (hu : hostStep s.useTurn = .next u) : u.blk = s.blk ∧ WaitMove i t s u := by
  have hopen : s.useTurn.env.portOpen = true := Env.portOpen_of (by simpa using hs.rst) (by simpa using hs.clk)
  obtain ⟨hl, hline⟩ | ⟨hl, hline⟩ | ⟨hl, hline⟩ := h.line_cases <;>
    rw [← s.useTurn_host] at hline <;> rw [hostStep_of_current hline (by simp [hopen])] at hu
  · cases hu
    exact ⟨by simp, .label hl (by simp [hl])⟩
  · cases hu
    have hstatus : busReadValue 0x010 s.useTurn.advance = s.blk.statusWord := by
      rw [busReadValue_register (by simpa using hs.rst) (k := 0x0010) (by decide) (by decide),
        State.advance_blk, s.useTurn_blk]
      rfl
    refine ⟨by simp, .read hl (by simp [hostRead_host, hl]) ?_⟩
    rw [hostRead_host, hstatus, tempGet_tempSet t t _ (by simpa using h.inv.temps), if_pos rfl]
    exact s.blk.statusWord_and_one
  · have htarget : s.useTurn.advance.env.host.labelLine w = some i := by
      simpa [HostAgent.labelLine] using h.lines.target
    rw [runLine, hostGoto_of_label htarget] at hu
    split_ifs at hu with hvalue <;> cases hu
    · exact ⟨by simp, .leave hl (by simpa using hvalue) (by simp [hl])⟩
    · exact ⟨by simp, .again hl (by simpa using hvalue) rfl⟩

/-- The sequencer can move only while a command runs (R35, R90). -/
theorem State.Inv.busy_of_enabled (hi : s.Inv) (h : s.sequencerEnabled = true) : s.blk.busy = true :=
  hi.blk.busy.2 (s.sequencerEnabled_iff.1 h).1

theorem State.Inv.busy_of_moves (hi : s.Inv) (h : s.sequencerMoves = true) : s.blk.busy = true :=
  hi.busy_of_enabled ((Bool.and_eq_true _ _).mp h).2

/-- A step keeps the host in its WAITIDLE lines, or takes it out of them past an idle block. -/
theorem State.AtWaitIdle.stays_or_leaves (h : s.AtWaitIdle i w t) (hs : s.env.Live) (hu : u.env.Live)
    (hstep : step s = .next u) : u.AtWaitIdle i w t ∨ (u.env.host.line = i + 3 ∧ u.blk.busy = false) := by
  have hinv := stepKeepsInvariant _ _ h.inv hstep
  have hlines := h.lines.of_prog (step_next hstep).2.2
  cases step_agent hs hu hstep with
  | host turn taken =>
    obtain ⟨hblk, hmove⟩ := h.host_turn hs taken
    cases hmove with
    | label line next => exact .inl ⟨hinv, hlines, by omega, by omega, by omega⟩
    | read line next value => exact .inl ⟨hinv, hlines, by omega, by omega, fun _ hv => hblk ▸ value.1 hv⟩
    | again line value next => exact .inl ⟨hinv, hlines, by omega, by omega, by omega⟩
    | leave line value next => exact .inr ⟨next, hblk ▸ h.seen line value⟩
  | sequencer _ moves _ host =>
    refine .inl ⟨hinv, hlines, host ▸ h.lower, host ▸ h.upper, fun hl hv => ?_⟩
    rw [host] at hl hv
    exact absurd ((h.inv.busy_of_moves moves).symm.trans (h.seen hl hv)) (by decide)
  | pass _ _ blk host =>
    refine .inl ⟨hinv, hlines, host ▸ h.lower, host ▸ h.upper, ?_⟩
    rw [host, blk]
    exact h.seen

/-- How many turns of its own the host still takes to leave its WAITIDLE lines, the block being idle: three from the
label, and one more from the branch where BUSY was read as 1. -/
def HostAgent.waitTurns (i t : Nat) (h : HostAgent) : Nat :=
  if h.line = i + 2 then if tempGet h.temps t &&& 0x1 = 0 then 1 else 4 else i + 3 - h.line

/-- In front of an idle block, the host's turn is one of them. -/
theorem WaitMove.waitTurns_lt (h : WaitMove i t s u) (hb : s.blk.busy = false) :
    u.env.host.waitTurns i t < s.env.host.waitTurns i t := by
  unfold HostAgent.waitTurns
  cases h with
  | label line next => rw [line, next]; simp
  | read line next value => rw [line, next, if_pos rfl, if_pos (value.2 hb)]; simp
  | again line value next => rw [line, next, if_pos rfl, if_neg value]; simp
  | leave line value next => rw [line, next, if_pos rfl, if_pos value]; simp

/-- At most how many steps an idle block keeps the host in its WAITIDLE lines: its turns there and those supplied. -/
def State.waitSteps (i t : Nat) (s : State) : Nat := s.env.host.waitTurns i t + s.env.turns.length

/-- In front of an idle block, the turn is the host's unless another is supplied. -/
theorem State.AtWaitIdle.turns_ne_nil (h : s.AtWaitIdle i w t) (hs : s.env.Live) (hb : s.blk.busy = false)
    (hturn : s.nextTurn ≠ some .host) : s.env.turns ≠ [] := by
  have hrests : s.sequencerEnabled = false :=
    eq_false_of_ne_true fun he => Bool.false_ne_true (hb.symm.trans (h.inv.busy_of_enabled he))
  intro hnil
  rw [State.nextTurn_nil hnil, h.hostEnabled hs, hrests] at hturn
  exact hturn rfl

/-- In front of an idle block, each step brings the end of the loop nearer, and the block stays idle. -/
theorem State.AtWaitIdle.idle_step (h : s.AtWaitIdle i w t) (hs : s.env.Live) (hu : u.env.Live)
    (hb : s.blk.busy = false) (hstep : step s = .next u) :
    u.blk.busy = false ∧ u.waitSteps i t < s.waitSteps i t := by
  have hturns := step_turns hs.rst hstep
  unfold State.waitSteps
  rw [hturns, List.length_tail]
  cases step_agent hs hu hstep with
  | host turn taken =>
    obtain ⟨hblk, hmove⟩ := h.host_turn hs taken
    have hlt := hmove.waitTurns_lt hb
    exact ⟨hblk ▸ hb, by omega⟩
  | sequencer _ moves => exact absurd ((h.inv.busy_of_moves moves).symm.trans hb) (by decide)
  | pass turn _ blk host =>
    have hpos := List.length_pos_iff.2 (h.turns_ne_nil hs hb turn)
    exact ⟨blk ▸ hb, by rw [host]; omega⟩

end

section
variable {r : Nat → State} (hrun : IsRun r) (hlive : ∀ k, (r k).env.Live)
include hrun hlive

/-- A host for ever in its WAITIDLE lines would see the command end (R183), and from then on the end of the loop come
nearer with every step. -/
theorem IsRun.leaves_waitIdle {i w t : Nat} (hinv : (r 0).Inv) : ∃ n, ¬ (r n).AtWaitIdle i w t := by
  by_contra hnever
  have hat : ∀ k, (r k).AtWaitIdle i w t := by simpa using hnever
  obtain ⟨m, hm⟩ := hrun.exists_idle hinv hlive (everyRunIsWeaklyFair r hrun)
  have hstep := fun k => (hat (m + k)).idle_step (hlive _) (hlive _) (hstep := hrun (m + k))
  have hidle : ∀ k, (r (m + k)).blk.busy = false := fun k => by
    induction k with
    | zero => exact eq_false_of_ne_true hm
    | succ k ih => exact (hstep k ih).1
  exact not_strictAnti_of_wellFoundedLT (fun k => (r (m + k)).waitSteps i t)
    (strictAnti_nat_of_succ_lt fun k => (hstep k (hidle k)).2)

end

/-- Settles O60: the host leaves its WAITIDLE lines, and the step that takes it out of them finds the block idle. -/
theorem waitIdleLoopEnds : Obligations.WaitIdleLoopEnds := by
  intro r i w t hrun hpins hinv hlabel hread hbranch htarget hline
  have hlive : ∀ k, (r k).env.Live := fun k => ⟨(hpins k).1, (hpins k).2⟩
  have hfirst : (r 0).AtWaitIdle i w t :=
    ⟨hinv, ⟨hlabel, hread, hbranch, htarget⟩, by omega, by omega, by omega⟩
  obtain ⟨n, hat, hout⟩ := exists_last_before hfirst (hrun.leaves_waitIdle hlive hinv)
  obtain ⟨hnext, hidle⟩ :=
    ((hat n le_rfl).stays_or_leaves (hlive n) (hlive (n + 1)) (hrun n)).resolve_left hout
  refine ⟨n + 1, hnext, hidle, fun k hk => ?_⟩
  have hk := hat k (by omega)
  exact ⟨hk.lower, hk.upper⟩

end Sys2Proof.Machine
end
